-- ==== Sys2Proof/Word.lean ====
section
/-! DEFINITION. The widths the spec fixes (R6, R7): every value is unsigned, bit 0 the least significant. -/

namespace Sys2Proof

/-- A register, a transmitted or received character, a byte of caller memory (R6: register width 8 bits). -/
abbrev Byte := BitVec 8

/-- A caller-memory address (R6: caller address 16 bits). -/
abbrev Addr := BitVec 16

/-- The divisor register UBRR and the divisor INIT computes (R30, R34). -/
abbrev Divisor := BitVec 16

/-- The seven stored bits of CONTROL_C (R28). -/
abbrev Format := BitVec 7

/-- A register-port transaction word, BUS16 (R59). -/
abbrev BusWord := BitVec 16

/-- A controller command word, CMD32 (R59). -/
abbrev CmdWord := BitVec 32

/-- The INIT operand (R64). -/
abbrev Baud := BitVec 24

end Sys2Proof
end

