-- ==== Sys2Proof/Config.lean ====
section
/-! DEFINITION. What the spec leaves to the platform: the parameters of R6, and the free value `draw()` of the
rules that say "any value" (R74, R80, R122). The parameters are plain data, so that a state can carry them and a
statement about every state holds for every platform. -/

namespace Sys2Proof

/-- The five register-port locations (R14). Index 3 is shared by BAUD_HIGH and CONTROL_C. -/
inductive RegIndex where
  | data
  | statusA
  | controlB
  | shared
  | baudLow
  deriving DecidableEq, Repr

/-- The platform address of each register-port location: the parameter `reg_addr` (R6, R42). -/
structure RegAddr where
  data : Nat
  statusA : Nat
  controlB : Nat
  shared : Nat
  baudLow : Nat
  deriving DecidableEq, Repr

/-- The implementation parameters of R6. The caller memory `M`, the last parameter of that table, is held beside
them in the state, since the host may change it between commands (R137). -/
structure Params where
  /-- `f_clk` in Hz. -/
  fClk : Nat
  /-- `reg_addr`. -/
  regAddr : RegAddr
  /-- `ubrrh_mask`: which bits of BAUD_HIGH are implemented. -/
  ubrrhMask : Byte
  /-- `reset_ucsrc`: CONTROL_C after reset. -/
  resetUcsrc : Format
  /-- `reset_ubrr`: the divisor register after reset. -/
  resetUbrr : Divisor
  /-- `tx_clock_runs`: whether the transmitter's steps are weakly fair. -/
  txClockRuns : Bool
  deriving DecidableEq, Repr

/-- The conditions R6 puts on the parameters: a positive clock, an injective `reg_addr`, a mask of the form
2^k - 1 with k at most 7, and a reset divisor whose high byte lies inside the mask. -/
abbrev Params.Valid (p : Params) : Prop :=
  0 < p.fClk ∧
  [p.regAddr.data, p.regAddr.statusA, p.regAddr.controlB, p.regAddr.shared, p.regAddr.baudLow].Nodup ∧
  p.ubrrhMask ∈ [0x00#8, 0x01#8, 0x03#8, 0x07#8, 0x0F#8, 0x1F#8, 0x3F#8, 0x7F#8] ∧
  p.resetUbrr.extractLsb' 8 8 &&& ~~~p.ubrrhMask = 0

/-- The parameter values the model names for `State.reset`. The mask is R6's own value for this hardware.
DESIGN CHOICE (unsafe, log entries 4, 5 and 7): f_clk, reg_addr and tx_clock_runs are OPEN in the spec.
PRESUMED (unsafe, log entry 6): reset_ucsrc and reset_ubrr are the ATmega32 family's values, which R143 names as
suggested defaults for the two OPEN parameters. -/
def Config.defaults : Params where
  fClk := 16000000
  regAddr := { data := 0, statusA := 1, controlB := 2, shared := 3, baudLow := 4 }
  ubrrhMask := 0x7F
  resetUcsrc := 0x06
  resetUbrr := 0x0000
  txClockRuns := true

/-- The free value of the `n`-th `draw()` (R8, R80): an uninterpreted byte, about which nothing can be proved. -/
opaque Config.draw : Nat → Byte

end Sys2Proof
end

