-- ==== Sys2Proof/Syntax.lean ====
section
/-! DEFINITION. The instructions: the 11 register-port transactions (R60) and the 4 controller commands (R62),
one constructor per row of spec/opcode_table.json, each operand at the width of R64. -/

namespace Sys2Proof

inductive Instr where
  /-- RD_DATA (R74). -/
  | rdData
  /-- RD_STATUS_A (R76). -/
  | rdStatusA
  /-- RD_CONTROL_B (R78). -/
  | rdControlB
  /-- RD_SHARED (R80). -/
  | rdShared
  /-- RD_BAUD_LOW (R83). -/
  | rdBaudLow
  /-- WR_DATA (R75). -/
  | wrData (d : Byte)
  /-- WR_STATUS_A (R77). -/
  | wrStatusA (d : Byte)
  /-- WR_CONTROL_B (R79). -/
  | wrControlB (d : Byte)
  /-- WR_BAUD_HIGH (R81). -/
  | wrBaudHigh (hi : BitVec 7)
  /-- WR_CONTROL_C (R82). -/
  | wrControlC (c : Format)
  /-- WR_BAUD_LOW (R84). -/
  | wrBaudLow (d : Byte)
  /-- INIT (R103). -/
  | init (baud : Baud)
  /-- TX (R110). -/
  | tx (byte : Byte)
  /-- RX (R113). -/
  | rx
  /-- SENDSTR (R116). -/
  | sendstr (addr : Addr)
  deriving DecidableEq, Repr

end Sys2Proof
end

