-- ==== Sys2Proof/WellFormed.lean ====
section
/-! DEFINITION. The refusal reasons of R129, and the well-formedness check R69 allows: it refuses, with the same
reason as the transaction's own rule, the forms whose value alone decides that they are refused. The one reason
of R79 that depends on the state, N6, is not part of it. -/

namespace Sys2Proof

/-- The refusal reasons N1 to N8 of R129. -/
inductive RefusalCode where
  /-- N1 ReservedBusWord (R61). -/
  | reservedBusWord
  /-- N2 ReservedCommand (R63). -/
  | reservedCommand
  /-- N3 WriteStatusA (R77). -/
  | writeStatusA
  /-- N4 InterruptEnable (R79). -/
  | interruptEnable
  /-- N5 NineBitMode (R79). -/
  | nineBitMode
  /-- N6 DisableRxTx (R79). -/
  | disableRxTx
  /-- N7 BaudHighReservedBits (R81). -/
  | baudHighReservedBits
  /-- N8 FrameNotAdmitted (R89). -/
  | frameNotAdmitted
  deriving DecidableEq, Repr

/-- The reason for which the instruction's value alone has it refused (R69), or none; `mask` is `ubrrh_mask`. -/
def Instr.valueRefusal (mask : Byte) : Instr → Option RefusalCode
  | .wrStatusA _ => some .writeStatusA
  | .wrControlB d =>
    if d.extractLsb' 5 3 ≠ 0 then some .interruptEnable
    else if d.getLsbD 2 then some .nineBitMode
    else none
  | .wrBaudHigh hi =>
    if (0#1 ++ hi) &&& ~~~mask ≠ 0 then some .baudHighReservedBits else none
  | .rdData | .rdStatusA | .rdControlB | .rdShared | .rdBaudLow => none
  | .wrData _ | .wrControlC _ | .wrBaudLow _ => none
  | .init _ | .tx _ | .rx | .sendstr _ => none

/-- No value refusal applies. Every operand is in the range of R64 by its type. -/
abbrev Instr.WellFormed (mask : Byte) (i : Instr) : Prop :=
  i.valueRefusal mask = none

end Sys2Proof
end

