-- ==== Sys2Proof/Decode.lean ====
section
/-! DEFINITION. The two formats (R59), their decoders, total on all words (R61, R63), the encoder written from
the same field tables (R60, R62), the opcode table's rows, and the assembler with its pseudo-instructions (R71,
R72). Words are delivered whole (R46), so no byte order stands here. -/

namespace Sys2Proof

/-- A word on one of the two ports. The port it arrives on fixes its length (R59). -/
inductive PortWord where
  | bus (w : BusWord)
  | cmd (w : CmdWord)
  deriving DecidableEq, Repr

/-- The 3-bit REG field of a register-port location (R14, R60). -/
def RegIndex.bits : RegIndex → BitVec 3
  | .data => 0
  | .statusA => 1
  | .controlB => 2
  | .shared => 3
  | .baudLow => 4

/-- The location a REG field names; 5, 6 and 7 are reserved (R66). -/
def RegIndex.ofBits (r : BitVec 3) : Option RegIndex :=
  if r = 0 then some .data
  else if r = 1 then some .statusA
  else if r = 2 then some .controlB
  else if r = 3 then some .shared
  else if r = 4 then some .baudLow
  else none

/-- The read transaction of a location (R61). -/
def readInstr : RegIndex → Instr
  | .data => .rdData
  | .statusA => .rdStatusA
  | .controlB => .rdControlB
  | .shared => .rdShared
  | .baudLow => .rdBaudLow

/-- The write transaction of a location: at the shared one, data bit 7 selects (R14, R61). -/
def writeInstr (r : RegIndex) (d : Byte) : Instr :=
  match r with
  | .data => .wrData d
  | .statusA => .wrStatusA d
  | .controlB => .wrControlB d
  | .shared => if d.getLsbD 7 then .wrControlC (d.extractLsb' 0 7) else .wrBaudHigh (d.extractLsb' 0 7)
  | .baudLow => .wrBaudLow d

/-- `decode_bus` of R61: N1 for a word that spells no transaction. -/
def decodeBus (w : BusWord) : Except RefusalCode Instr :=
  if w.extractLsb' 11 4 ≠ 0 then .error .reservedBusWord
  else
    match RegIndex.ofBits (w.extractLsb' 8 3) with
    | none => .error .reservedBusWord
    | some r =>
      if w.getLsbD 15 then .ok (writeInstr r (w.extractLsb' 0 8))
      else if w.extractLsb' 0 8 ≠ 0 then .error .reservedBusWord
      else .ok (readInstr r)

/-- `decode_cmd` of R63: N2 for a word that spells no command. -/
def decodeCmd (w : CmdWord) : Except RefusalCode Instr :=
  if w.extractLsb' 24 8 = 0x01 then .ok (.init (w.extractLsb' 0 24))
  else if w.extractLsb' 24 8 = 0x02 then
    if w.extractLsb' 8 16 ≠ 0 then .error .reservedCommand else .ok (.tx (w.extractLsb' 0 8))
  else if w.extractLsb' 24 8 = 0x03 then
    if w.extractLsb' 0 24 ≠ 0 then .error .reservedCommand else .ok .rx
  else if w.extractLsb' 24 8 = 0x04 then
    if w.extractLsb' 16 8 ≠ 0 then .error .reservedCommand else .ok (.sendstr (w.extractLsb' 0 16))
  else .error .reservedCommand

/-- The decoder of each port (R59). -/
def decode : PortWord → Except RefusalCode Instr
  | .bus w => decodeBus w
  | .cmd w => decodeCmd w

/-- A BUS16 word from its fields W, REG and DATA, with Z zero (R60). -/
def busWord (write : Bool) (r : RegIndex) (d : Byte) : BusWord :=
  BitVec.ofBool write ++ 0#4 ++ r.bits ++ d

/-- A CMD32 word from its fields OP and IMM (R62). -/
def cmdWord (op : Byte) (imm : BitVec 24) : CmdWord :=
  op ++ imm

/-- The word of an instruction and the port it goes to (R65). -/
def encode : Instr → PortWord
  | .rdData => .bus (busWord false .data 0)
  | .rdStatusA => .bus (busWord false .statusA 0)
  | .rdControlB => .bus (busWord false .controlB 0)
  | .rdShared => .bus (busWord false .shared 0)
  | .rdBaudLow => .bus (busWord false .baudLow 0)
  | .wrData d => .bus (busWord true .data d)
  | .wrStatusA d => .bus (busWord true .statusA d)
  | .wrControlB d => .bus (busWord true .controlB d)
  | .wrBaudHigh hi => .bus (busWord true .shared (0#1 ++ hi))
  | .wrControlC c => .bus (busWord true .shared (1#1 ++ c))
  | .wrBaudLow d => .bus (busWord true .baudLow d)
  | .init baud => .cmd (cmdWord 0x01 baud)
  | .tx byte => .cmd (cmdWord 0x02 (0#16 ++ byte))
  | .rx => .cmd (cmdWord 0x03 0)
  | .sendstr addr => .cmd (cmdWord 0x04 (0#8 ++ addr))

/-- A row of the opcode table: the words of the row's format with `w &&& mask = pattern`. -/
structure OpcodeRow (n : Nat) where
  mnemonic : String
  pattern : BitVec n
  mask : BitVec n
  deriving DecidableEq, Repr

/-- The BUS16 rows of spec/opcode_table.json. -/
def busRows : List (OpcodeRow 16) :=
  [ ⟨"RD_DATA", 0x0000, 0xFFFF⟩, ⟨"RD_STATUS_A", 0x0100, 0xFFFF⟩, ⟨"RD_CONTROL_B", 0x0200, 0xFFFF⟩,
    ⟨"RD_SHARED", 0x0300, 0xFFFF⟩, ⟨"RD_BAUD_LOW", 0x0400, 0xFFFF⟩, ⟨"WR_DATA", 0x8000, 0xFF00⟩,
    ⟨"WR_STATUS_A", 0x8100, 0xFF00⟩, ⟨"WR_CONTROL_B", 0x8200, 0xFF00⟩, ⟨"WR_BAUD_HIGH", 0x8300, 0xFF80⟩,
    ⟨"WR_CONTROL_C", 0x8380, 0xFF80⟩, ⟨"WR_BAUD_LOW", 0x8400, 0xFF00⟩ ]

/-- The CMD32 rows of spec/opcode_table.json. -/
def cmdRows : List (OpcodeRow 32) :=
  [ ⟨"INIT", 0x01000000, 0xFF000000⟩, ⟨"TX", 0x02000000, 0xFFFFFF00⟩, ⟨"RX", 0x03000000, 0xFFFFFFFF⟩,
    ⟨"SENDSTR", 0x04000000, 0xFFFF0000⟩ ]

/-- The mnemonic of an instruction, as the opcode table spells it (R71). -/
def Instr.mnemonic : Instr → String
  | .rdData => "RD_DATA"
  | .rdStatusA => "RD_STATUS_A"
  | .rdControlB => "RD_CONTROL_B"
  | .rdShared => "RD_SHARED"
  | .rdBaudLow => "RD_BAUD_LOW"
  | .wrData _ => "WR_DATA"
  | .wrStatusA _ => "WR_STATUS_A"
  | .wrControlB _ => "WR_CONTROL_B"
  | .wrBaudHigh _ => "WR_BAUD_HIGH"
  | .wrControlC _ => "WR_CONTROL_C"
  | .wrBaudLow _ => "WR_BAUD_LOW"
  | .init _ => "INIT"
  | .tx _ => "TX"
  | .rx => "RX"
  | .sendstr _ => "SENDSTR"

/-- The word that `nbits` bits of an opcode-table row stand for, and its port: a row of at most 16 bits is BUS16,
any other CMD32 (R59). Bits above `nbits` are 0. -/
def tableWord (nbits w : Nat) : PortWord :=
  if nbits ≤ 16 then .bus (BitVec.ofNat 16 w) else .cmd (BitVec.ofNat 32 w)

/-- What the decoder reads from an opcode-table word. -/
def decodeTableWord (nbits w : Nat) : Option Instr :=
  match decode (tableWord nbits w) with
  | .ok i => some i
  | .error _ => none

/-- A number as the assembler's source gives it: decimal or hexadecimal digits, or a character literal, which is an
8-bit code (R71). -/
inductive Literal where
  | num (n : Nat)
  | chr (code : Byte)
  deriving DecidableEq, Repr

/-- The value of a literal (R71). -/
def Literal.value : Literal → Nat
  | .num n => n
  | .chr code => code.toNat

/-- An operand field of `n` bits; the assembler rejects a value out of its range (R71, R64). -/
def asmOperand (n : Nat) (l : Literal) : Option (BitVec n) :=
  if l.value < 2 ^ n then some (BitVec.ofNat n l.value) else none

/-- A line of assembler source: the mnemonics of R71 and the pseudo-instructions of R72. -/
inductive AsmLine where
  | rd (r : RegIndex)
  | wrData (d : Literal)
  | wrStatusA (d : Literal)
  | wrControlB (d : Literal)
  | wrBaudHigh (d : Literal)
  | wrControlC (c : Literal)
  | wrBaudLow (d : Literal)
  | init (baud : Literal)
  | tx (byte : Literal)
  | rx
  | sendstr (addr : Literal)
  /-- Pseudo-instruction `WR SHARED, d8`. -/
  | wrShared (d : Literal)
  /-- Pseudo-instruction `LDBAUD d16`. -/
  | ldbaud (d : Literal)
  /-- Pseudo-instruction `FRAME8N1`. -/
  | frame8n1
  /-- Pseudo-instruction `ENRXTX`. -/
  | enrxtx
  deriving DecidableEq, Repr

/-- The instructions a line of source expands to (R71, R72), or none where the assembler rejects it: an operand
out of range, or for LDBAUD a high byte outside `ubrrh_mask`. -/
def AsmLine.expand (mask : Byte) : AsmLine → Option (List Instr)
  | .rd r => some [readInstr r]
  | .wrData d => (asmOperand 8 d).map fun d => [.wrData d]
  | .wrStatusA d => (asmOperand 8 d).map fun d => [.wrStatusA d]
  | .wrControlB d => (asmOperand 8 d).map fun d => [.wrControlB d]
  | .wrBaudHigh d => (asmOperand 7 d).map fun d => [.wrBaudHigh d]
  | .wrControlC c => (asmOperand 7 c).map fun c => [.wrControlC c]
  | .wrBaudLow d => (asmOperand 8 d).map fun d => [.wrBaudLow d]
  | .init baud => (asmOperand 24 baud).map fun b => [.init b]
  | .tx byte => (asmOperand 8 byte).map fun b => [.tx b]
  | .rx => some [.rx]
  | .sendstr addr => (asmOperand 16 addr).map fun a => [.sendstr a]
  | .wrShared d => (asmOperand 8 d).map fun d => [writeInstr .shared d]
  | .ldbaud d =>
    (asmOperand 16 d).bind fun d =>
      if d.extractLsb' 8 8 &&& ~~~mask = 0 then
        some [writeInstr .shared (d.extractLsb' 8 8), .wrBaudLow (d.extractLsb' 0 8)]
      else none
  | .frame8n1 => some [.wrControlC 0x06]
  | .enrxtx => some [.wrControlB 0x18]

/-- The words of a line of source (R71, R72). -/
def assemble (mask : Byte) (l : AsmLine) : Option (List PortWord) :=
  (l.expand mask).map (List.map encode)

/-- The value of a digit in a base, if the character is one: 0 to 9, then a to f or A to F. -/
def digitValue (base : Nat) (c : Char) : Option Nat :=
  let v :=
    if '0' ≤ c ∧ c ≤ '9' then c.toNat - '0'.toNat
    else if 'a' ≤ c ∧ c ≤ 'f' then c.toNat - 'a'.toNat + 10
    else if 'A' ≤ c ∧ c ≤ 'F' then c.toNat - 'A'.toNat + 10
    else base
  if v < base then some v else none

/-- The value of digits, the most significant first, after the value of those already read. -/
def digitsValue (base : Nat) (read : Nat) : List Char → Option Nat
  | [] => some read
  | c :: cs => (digitValue base c).bind fun v => digitsValue base (read * base + v) cs

/-- The literal of a quoted character: its 8-bit code, for a character that has one (R71). DESIGN CHOICE (unsafe, log
entry 24): the spec names no character code, and the model takes the Unicode code point. -/
def charLiteral (c : Char) : Option Literal :=
  if c.toNat < 256 then some (.chr (BitVec.ofNat 8 c.toNat)) else none

/-- A literal of R71: a quoted character, digits after `0x`, or decimal digits. -/
def parseLiteral : List Char → Option Literal
  | [] => none
  | ['\'', c, '\''] => charLiteral c
  | ['0', 'x'] => none
  | '0' :: 'x' :: cs => (digitsValue 16 0 cs).map .num
  | cs => (digitsValue 10 0 cs).map .num

/-- The token read so far, in front of the tokens after it. -/
def flushToken (current : List Char) (rest : List (List Char)) : List (List Char) :=
  if current = [] then rest else current :: rest

/-- The tokens of a line: a quoted character, a comma, and what stands between spaces. DESIGN CHOICE (safe, log
entry 23): R71 gives no grammar of spaces. -/
def tokens (current : List Char) : List Char → List (List Char)
  | [] => flushToken current []
  | '\'' :: c :: '\'' :: cs => flushToken current (['\'', c, '\''] :: tokens [] cs)
  | ' ' :: cs => flushToken current (tokens [] cs)
  | ',' :: cs => flushToken current ([','] :: tokens [] cs)
  | c :: cs => tokens (current ++ [c]) cs

/-- The location a read names (R71). -/
def parseReadable (name : String) : Option RegIndex :=
  if name = "DATA" then some .data
  else if name = "STATUS_A" then some .statusA
  else if name = "CONTROL_B" then some .controlB
  else if name = "SHARED" then some .shared
  else if name = "BAUD_LOW" then some .baudLow
  else none

/-- The write a register name and a literal spell (R71, R72). -/
def parseWrite (name : String) (d : Literal) : Option AsmLine :=
  if name = "DATA" then some (.wrData d)
  else if name = "STATUS_A" then some (.wrStatusA d)
  else if name = "CONTROL_B" then some (.wrControlB d)
  else if name = "BAUD_HIGH" then some (.wrBaudHigh d)
  else if name = "CONTROL_C" then some (.wrControlC d)
  else if name = "BAUD_LOW" then some (.wrBaudLow d)
  else if name = "SHARED" then some (.wrShared d)
  else none

/-- The command or pseudo-instruction a name and a literal spell (R71, R72). -/
def parseCommand (name : String) (l : Literal) : Option AsmLine :=
  if name = "INIT" then some (.init l)
  else if name = "TX" then some (.tx l)
  else if name = "SENDSTR" then some (.sendstr l)
  else if name = "LDBAUD" then some (.ldbaud l)
  else none

/-- A line of source from its tokens (R71, R72). -/
def parseTokens : List (List Char) → Option AsmLine
  | [op] =>
    if String.ofList op = "RX" then some .rx
    else if String.ofList op = "FRAME8N1" then some .frame8n1
    else if String.ofList op = "ENRXTX" then some .enrxtx
    else none
  | [op, x] =>
    if String.ofList op = "RD" then (parseReadable (String.ofList x)).map .rd
    else (parseLiteral x).bind (parseCommand (String.ofList op))
  | [op, name, [','], x] =>
    if String.ofList op = "WR" then (parseLiteral x).bind (parseWrite (String.ofList name)) else none
  | _ => none

/-- The words of one line of source text (R71, R72), or none where the assembler rejects it. -/
def assembleText (mask : Byte) (line : List Char) : Option (List PortWord) :=
  (parseTokens (tokens [] line)).bind (assemble mask)

end Sys2Proof
end

