-- ==== Sys2Proof/Machine/State.lean ====
section
/-! DEFINITION. The state record of R13, with the launch inputs of R6 beside it and the four fields of the model's
own (the schedule of moves still to come, whose turn it is, the values returned to the host, the count of free
values drawn), the reasons a step can stop, and the state after reset (R143). -/

namespace Sys2Proof.Machine

/-- The fault codes F1 to F10 of R126. -/
inductive FaultCode where
  /-- F1 BaudZero (R101). -/
  | baudZero
  /-- F2 DivisorRange (R101). -/
  | divisorRange
  /-- F3 TxOverwrite (R75). -/
  | txOverwrite
  /-- F4 TxDisabled (R75). -/
  | txDisabled
  /-- F5 RxEmptyRead (R74). -/
  | rxEmptyRead
  /-- F6 RxOverrun (R94). -/
  | rxOverrun
  /-- F7 CmdBusy (R102). -/
  | cmdBusy
  /-- F8 BusContention (R88). -/
  | busContention
  /-- F9 StringWrap (R119). -/
  | stringWrap
  /-- F10 NoResult (R122). -/
  | noResult
  deriving DecidableEq, Repr

/-- The number of a fault code (R126). -/
def FaultCode.number : FaultCode → Nat
  | .baudZero => 1
  | .divisorRange => 2
  | .txOverwrite => 3
  | .txDisabled => 4
  | .rxEmptyRead => 5
  | .rxOverrun => 6
  | .cmdBusy => 7
  | .busContention => 8
  | .stringWrap => 9
  | .noResult => 10

/-- The stored flags of STATUS_A (R15). RXC and UDRE are not stored (R16, R18). -/
structure StatusA where
  /-- Bit 6, transmit-complete (R17). -/
  txc : Bool
  /-- Bit 4, frame-error (R19). -/
  fe : Bool
  /-- Bit 3, overrun (R20). -/
  dor : Bool
  /-- Bit 2, parity-error (R21). -/
  pe : Bool
  /-- Bit 1, double-speed (R22). -/
  u2x : Bool
  /-- Bit 0, multi-processor mode (R23). -/
  mpcm : Bool
  deriving DecidableEq, Repr

/-- The fields of CONTROL_B, bit 7 first (R24). Bits no write stores a 1 in are held all the same (DEDUCED, safe, log
entry 21). -/
structure ControlB where
  /-- Bit 7, receive-complete interrupt enable (R26). -/
  rxcie : Bool
  /-- Bit 6, transmit-complete interrupt enable (R26). -/
  txcie : Bool
  /-- Bit 5, data-register-empty interrupt enable (R26). -/
  udrie : Bool
  /-- Bit 4, receiver enable (R25). -/
  rxen : Bool
  /-- Bit 3, transmitter enable (R25). -/
  txen : Bool
  /-- Bit 2, character size bit 2 (R27). -/
  ucsz2 : Bool
  /-- Bit 1, ninth received data bit (R27). -/
  rxb8 : Bool
  /-- Bit 0, ninth transmit data bit (R27). -/
  txb8 : Bool
  deriving DecidableEq, Repr

/-- A byte on its way to the line, with the divisor and the format latched when it entered the shift stage
(R31, R91), and the transmit event it becomes (R35). DEDUCED (safe, log entry 20): the format is latched too. -/
structure TxEvent where
  byte : Byte
  ubrr : Divisor
  c : Format
  deriving DecidableEq, Repr

/-- The controller's program counter (R33). -/
inductive CtlState where
  | idle
  | initWh
  | initWl
  | initWb
  | initWc
  | txPoll
  | txAct
  | rxPoll
  | rxAct
  | ssFetch
  | ssPoll
  | ssAct
  deriving DecidableEq, Repr

/-- The 4-bit value of a controller state (R33, D46). -/
def CtlState.code : CtlState → BitVec 4
  | .idle => 0
  | .initWh => 1
  | .initWl => 2
  | .initWb => 3
  | .initWc => 4
  | .txPoll => 5
  | .txAct => 6
  | .rxPoll => 7
  | .rxAct => 8
  | .ssFetch => 9
  | .ssPoll => 10
  | .ssAct => 11

/-- The controller: its program counter (R33) and its registers (R34). -/
structure Controller where
  state : CtlState
  /-- The divisor INIT computed. -/
  div : Divisor
  /-- The byte a Transmit or SendString step sends. -/
  byte : Byte
  /-- The SendString fetch address. -/
  addr : Addr
  /-- The value the last Receive returned, if any. -/
  result : Option Byte
  deriving DecidableEq, Repr

/-- The two agents of the block that step on their own (R5). The receiver steps only when a frame is offered. -/
inductive Agent where
  | controller
  | transmitter
  deriving DecidableEq, Repr

/-- One step of the interleaving (R5, R52, R137): what the host and the line environment do, and which agent of
the block steps. A list of moves is one order of steps; every order of steps is some list (R132). -/
inductive Move where
  /-- The host offers a word on the command port or issues a register-port transaction (R102, R73). -/
  | offer (w : PortWord)
  /-- The platform reads (`none`) or writes (`some d`) at a platform address (R42). -/
  | access (address : Nat) (write : Option Byte)
  /-- The host reads `busy` (R122). -/
  | readBusy
  /-- The host reads `result` (R122). -/
  | readResult
  /-- The host writes a byte of its own memory, the caller memory (R44, R137). -/
  | writeMem (a : Addr) (b : Byte)
  /-- The line environment offers a frame with data byte `b` and framing-error indication `fe` (R94). -/
  | frame (b : Byte) (fe : Bool)
  /-- An agent of the block takes its step, if it has one (R90, R120). -/
  | turn (agent : Agent)
  /-- Reset is asserted (R144); power-on is reset too (R142). -/
  | reset
  deriving DecidableEq, Repr

/-- A value the block returns to the host (R73, R122, R155). -/
inductive HostValue where
  /-- The value of a register read. -/
  | read (v : Byte)
  /-- The value of `busy`. -/
  | busy (b : Bool)
  /-- The value of `result`. -/
  | result (v : Byte)
  deriving DecidableEq, Repr

/-- The caller memory `M` (R44): (address, byte) pairs in one canonical form, addresses rising, no byte listed
that equals what an unlisted address reads as. -/
abbrev Memory := List Host.Cell

structure State where
  /-- The parameters of R6, fixed for a run. -/
  params : Params
  /-- STATUS_A (R15). -/
  a : StatusA
  /-- CONTROL_B (R24). -/
  b : ControlB
  /-- CONTROL_C (R28). -/
  c : Format
  /-- BAUD_HIGH (R30). -/
  ubrrh : Byte
  /-- BAUD_LOW (R30). -/
  ubrrl : Byte
  /-- The transmit buffer (R31). -/
  txbuf : Option Byte
  /-- The shift stage (R31). -/
  txshift : Option TxEvent
  /-- The receive buffer (R32). -/
  rxbuf : Option Byte
  /-- The controller (R33, R34). -/
  ctl : Controller
  /-- The line history, oldest first (R35). -/
  txline : List TxEvent
  /-- The fault codes raised so far, in rising order of their numbers (R36; log entry 17). -/
  faults : List FaultCode
  /-- The first refusal (R36). -/
  refused : Option RefusalCode
  /-- The caller memory (R6, R44). -/
  mem : Memory
  /-- The moves to come, the next first (the model's own: log entry 2). -/
  schedule : List Move
  /-- Whose turn it is when no move is scheduled (the model's own: log entry 2). -/
  turn : Agent
  /-- The values returned to the host, oldest first (the model's own, the observation of R155: log entry 12). -/
  returned : List HostValue
  /-- How many free values have been drawn (the model's own: log entry 11). -/
  draws : Nat
  deriving DecidableEq, Repr

/-- Why the machine stands still with a fault. -/
inductive Fault where
  /-- Raised by every move but reset, in a state whose fault set is not empty: no agent has a step (R128). It
  carries the fault set. Safe: nothing is claimed of what happens after a fault. -/
  | faulted (codes : List FaultCode)
  deriving DecidableEq, Repr

/-- Why the machine refuses to go on. -/
inductive Refusal where
  /-- An instruction without a meaning in this model; raised by no arm of `exec`. Safe. -/
  | notModelled (mnemonic : String)
  /-- Raised by every move but reset, in a state that records a refusal and no fault: no agent has a step (R130).
  It carries the recorded reason. Safe: nothing is claimed of what happens after a refusal. -/
  | formRefused (reason : RefusalCode)
  /-- Raised by the host's write to a caller-memory byte that a running SENDSTR has still to fetch: the model has
  no such move (R56, R137). Safe: nothing is claimed of a host that breaks this duty. -/
  | callerMemoryInUse (a : Addr)
  deriving DecidableEq, Repr

/-- The reset value of STATUS_A's stored flags (R15, R143). -/
def StatusA.reset : StatusA where
  txc := false
  fe := false
  dor := false
  pe := false
  u2x := false
  mpcm := false

/-- The reset value of CONTROL_B (R24, R143). -/
def ControlB.reset : ControlB where
  rxcie := false
  txcie := false
  udrie := false
  rxen := false
  txen := false
  ucsz2 := false
  rxb8 := false
  txb8 := false

/-- The controller after reset (R33, R34, R143). DESIGN CHOICE (unsafe, log entry 8): `div`, `byte` and `addr` hold
no value in the spec; the model names 0 for each. -/
def Controller.reset : Controller where
  state := .idle
  div := 0
  byte := 0
  addr := 0
  result := none

/-- The reset state of R143 for given parameters and caller memory, with nothing scheduled. -/
def State.launch (p : Params) (mem : Memory) : State where
  params := p
  a := .reset
  b := .reset
  c := p.resetUcsrc
  ubrrh := p.resetUbrr.extractLsb' 8 8
  ubrrl := p.resetUbrr.extractLsb' 0 8
  txbuf := none
  txshift := none
  rxbuf := none
  ctl := .reset
  txline := []
  faults := []
  refused := none
  mem := mem
  schedule := []
  turn := .controller
  returned := []
  draws := 0

/-- The machine right after reset: R143 with the parameter values the model names, and no caller memory listed. -/
def State.reset : State :=
  State.launch Config.defaults []

end Sys2Proof.Machine
end

