-- ==== Sys2Proof/Machine/Ops.lean ====
section
/-! DEFINITION. The named operations over the state: caller memory (R44), one update per field, recording a fault
or a refusal (R8, R127, R129), quiescence and the order of the first two checks of a step (R128, R131). -/

namespace Sys2Proof.Machine

/-- What one step, or one instruction, answers. -/
abbrev Out := Host.Outcome State Fault Refusal

/-! Caller memory (R41: 65,536 bytes; R44). -/

/-- What an unlisted address reads as. DESIGN CHOICE (unsafe, log entry 9): the spec gives `M` no launch contents. -/
def unlistedByte : Byte := 0x00

/-- One byte of the memory at a numeric address. -/
def memGet (m : Memory) (a : Nat) : Byte :=
  match m with
  | [] => unlistedByte
  | cell :: rest => if cell.1 = a then cell.2 else memGet rest a

/-- Put a cell into a memory in canonical form, or take its address out where the byte is what an unlisted address
reads as. -/
def memPut (m : Memory) (a : Nat) (b : Byte) : Memory :=
  match m with
  | [] => if b = unlistedByte then [] else [(a, b)]
  | cell :: rest =>
    if cell.1 < a then cell :: memPut rest a b
    else if cell.1 = a then (if b = unlistedByte then rest else (a, b) :: rest)
    else if b = unlistedByte then cell :: rest
    else (a, b) :: cell :: rest

/-- The canonical form: addresses strictly rising and inside the 16-bit space, no cell that says what an unlisted
address says. -/
abbrev Memory.wf (m : Memory) : Prop :=
  m.Pairwise (fun p q => p.1 < q.1) ∧ ∀ p ∈ m, p.1 < 65536 ∧ p.2 ≠ unlistedByte

/-- `MemRead(a, 1)` (R8, R44). -/
def memRead (s : State) (a : Addr) : Byte :=
  memGet s.mem a.toNat

/-! One update per field. -/

def setFlags (a : StatusA) (s : State) : State := { s with a := a }

def setEnables (b : ControlB) (s : State) : State := { s with b := b }

def setFormat (c : Format) (s : State) : State := { s with c := c }

def setBaudHigh (v : Byte) (s : State) : State := { s with ubrrh := v }

def setBaudLow (v : Byte) (s : State) : State := { s with ubrrl := v }

def setTxbuf (v : Option Byte) (s : State) : State := { s with txbuf := v }

def setTxshift (v : Option TxEvent) (s : State) : State := { s with txshift := v }

def setRxbuf (v : Option Byte) (s : State) : State := { s with rxbuf := v }

def setCtl (c : Controller) (s : State) : State := { s with ctl := c }

/-- `ctl.state <- q` (R8). -/
def goto (q : CtlState) (s : State) : State := setCtl { s.ctl with state := q } s

/-- `emit(e)` (R8). -/
def emit (e : TxEvent) (s : State) : State := { s with txline := s.txline ++ [e] }

def setMem (m : Memory) (s : State) : State := { s with mem := m }

def setSchedule (l : List Move) (s : State) : State := { s with schedule := l }

def setTurn (g : Agent) (s : State) : State := { s with turn := g }

/-- The host receives a value (R73, R122). -/
def giveHost (v : HostValue) (s : State) : State := { s with returned := s.returned ++ [v] }

/-- `draw()` (R8): a free value, and the state in which it has been drawn. -/
def draw (s : State) : Byte × State := (Config.draw s.draws, { s with draws := s.draws + 1 })

/-! Faults and refusals. -/

/-- Add a code to a set of codes kept in rising order of their numbers. -/
def insertFault (f : FaultCode) : List FaultCode → List FaultCode
  | [] => [f]
  | g :: rest =>
    if f.number < g.number then f :: g :: rest
    else if f = g then g :: rest
    else g :: insertFault f rest

/-- `raise Fault(Fn)` (R8, R127): the code is recorded and nothing else. -/
def raise (f : FaultCode) (s : State) : State := { s with faults := insertFault f s.faults }

/-- `refuse(Nn)` (R8, R129): the reason is recorded if none is, and nothing else. -/
def refuse (r : RefusalCode) (s : State) : State := { s with refused := s.refused.or (some r) }

/-- No fault and no refusal is recorded, so agents have steps (R128, R130). -/
def live (s : State) : Bool := s.faults.isEmpty && s.refused.isNone

/-- Go on with the rest of a step unless what came before raised a fault or was refused (R127: a raise keeps the
effects before it and has none after it; R131: one step raises at most one). DEDUCED, log entry 13. -/
def andThen (s : State) (k : State → State) : State := if live s then k s else s

/-- The first check of every step but reset (R131): in a faulted or refused state no agent has a step. DESIGN CHOICE
(safe, log entry 1): the outcomes `fault` and `refused` say so. -/
def whenLive (s : State) (k : State → State) : Out :=
  match s.faults with
  | f :: fs => .fault (.faulted (f :: fs))
  | [] =>
    match s.refused with
    | some r => .refused (.formRefused r)
    | none => .next (k s)

/-- `busy` (R122): the controller is not IDLE. -/
def busy (s : State) : Bool := s.ctl.state != .idle

/-- A host register transaction (R73): while the controller is busy it is F8 and has no other effect (R88). -/
def hostTransaction (s : State) (k : State → State) : Out :=
  whenLive s fun s => if busy s then raise .busContention s else k s

/-- A host command (R102): while the controller is busy it is F7 and the word is not taken. -/
def hostCommand (s : State) (k : State → State) : Out :=
  whenLive s fun s => if busy s then raise .cmdBusy s else k s

/-- What reset does to a running block (R143, R144): every field of the block takes its reset value and a new run
begins. DEDUCED (log entry 14): the parameters, the caller memory, the moves to come and the count of drawn values
are not the block's, so they stay. -/
def resetBlock (s : State) : State :=
  { State.launch s.params s.mem with schedule := s.schedule, draws := s.draws }

end Sys2Proof.Machine
end

