-- ==== Sys2Proof/Machine/Operands.lean ====
section
/-! DEFINITION. The operand forms (R64: unsigned fields, zero-extended), the two bytes of the divisor (R46), the
selector of the shared location (R28, R147), the mask of BAUD_HIGH (R30), the location a platform address reaches
(R42), and the divisor computation (R101). -/

namespace Sys2Proof.Machine

/-- `zext_8(hi)` of the WR_BAUD_HIGH operand (R64). -/
def zextHigh (hi : BitVec 7) : Byte := 0#1 ++ hi

/-- The baud operand as a natural number (R64). -/
def baudRate (b : Baud) : Nat := b.toNat

/-- Bits 15:8 of the divisor (R46). -/
def highByte (d : Divisor) : Byte := d.extractLsb' 8 8

/-- Bits 7:0 of the divisor (R46). -/
def lowByte (d : Divisor) : Byte := d.extractLsb' 0 8

/-- UBRR, the two baud registers as one value (R30). -/
def ubrr (s : State) : Divisor := s.ubrrh ++ s.ubrrl

/-- The register-select bit of a byte written at the shared location (R28). -/
def selector (d : Byte) : Bool := d.getLsbD 7

/-- The seven bits below the selector (R60). -/
def payload (d : Byte) : BitVec 7 := d.extractLsb' 0 7

/-- `v & ~ubrrh_mask = 0`: no unimplemented bit of BAUD_HIGH is set (R30). -/
def insideMask (p : Params) (v : Byte) : Bool := v &&& ~~~p.ubrrhMask == 0

/-- The location at a platform address, if it is one of this block's (R42). -/
def locationAt (p : Params) (address : Nat) : Option RegIndex :=
  if address = p.regAddr.data then some .data
  else if address = p.regAddr.statusA then some .statusA
  else if address = p.regAddr.controlB then some .controlB
  else if address = p.regAddr.shared then some .shared
  else if address = p.regAddr.baudLow then some .baudLow
  else none

/-- The BUS16 word of a platform access to a location (R60): a read, or a write of a byte. -/
def accessWord (r : RegIndex) : Option Byte → PortWord
  | none => .bus (busWord false r 0)
  | some d => .bus (busWord true r d)

/-- The largest loadable divisor (R101, C2). -/
def divmax (p : Params) : Nat := p.ubrrhMask.toNat * 256 + 255

/-- `divisor(b)` (R101): exact naturals, floor division; F1 for a zero rate, F2 outside 0 to divmax. -/
def divisor (p : Params) (b : Nat) : Except FaultCode Divisor :=
  if b = 0 then .error .baudZero
  else if p.fClk / (16 * b) = 0 then .error .divisorRange
  else if divmax p < p.fClk / (16 * b) - 1 then .error .divisorRange
  else .ok (BitVec.ofNat 16 (p.fClk / (16 * b) - 1))

end Sys2Proof.Machine
end

