-- ==== Sys2Proof/Machine/Flags.lean ====
section
/-! DEFINITION. The status flags and control fields: the two that are not stored (R16, R18), the bytes that reads
of STATUS_A and CONTROL_B give (R76, R78), the flags a DATA read clears (R74), the fields a CONTROL_B write stores
and the writes it refuses (R79), the fields of CONTROL_C (R28), and the admitted frame format (R89). -/

namespace Sys2Proof.Machine

/-- RXC is 1 exactly when the receive buffer is not empty (R16). -/
def rxc (s : State) : Bool := s.rxbuf.isSome

/-- UDRE is 1 exactly when the transmit buffer is empty (R18). -/
def udre (s : State) : Bool := s.txbuf.isNone

/-- A byte from its bits, bit 7 first. -/
def byteOfBits (b7 b6 b5 b4 b3 b2 b1 b0 : Bool) : Byte :=
  BitVec.ofBool b7 ++ BitVec.ofBool b6 ++ BitVec.ofBool b5 ++ BitVec.ofBool b4 ++
    BitVec.ofBool b3 ++ BitVec.ofBool b2 ++ BitVec.ofBool b1 ++ BitVec.ofBool b0

/-- RXC:TXC:UDRE:FE:DOR:PE:U2X:MPCM (R15, R76). -/
def statusAByte (s : State) : Byte :=
  byteOfBits (rxc s) s.a.txc (udre s) s.a.fe s.a.dor s.a.pe s.a.u2x s.a.mpcm

/-- RXCIE:TXCIE:UDRIE:RXEN:TXEN:UCSZ2:0:TXB8 (R24, R78). -/
def controlBByte (b : ControlB) : Byte :=
  byteOfBits b.rxcie b.txcie b.udrie b.rxen b.txen b.ucsz2 false b.txb8

/-- The UDRE bit of a STATUS_A value, `v[5]` (R111). -/
def udreBit (v : Byte) : Bool := v.getLsbD 5

/-- The RXC bit of a STATUS_A value, `v[7]` (R114). -/
def rxcBit (v : Byte) : Bool := v.getLsbD 7

/-- A DATA read clears FE, PE and DOR (R74). -/
def clearErrors (a : StatusA) : StatusA := { a with fe := false, pe := false, dor := false }

/-- The errors of an accepted frame: FE as offered, PE 0 (R94). -/
def frameErrors (fe : Bool) (a : StatusA) : StatusA := { a with fe := fe, pe := false }

/-- The fields a CONTROL_B write stores; `d[1]` is ignored (R79). -/
def storeEnables (d : Byte) (b : ControlB) : ControlB :=
  { b with rxen := d.getLsbD 4, txen := d.getLsbD 3, txb8 := d.getLsbD 0 }

/-- Why a CONTROL_B write is refused, tested in the order of R79, or none. -/
def controlBRefusal (d : Byte) (b : ControlB) : Option RefusalCode :=
  if d.extractLsb' 5 3 ≠ 0 then some .interruptEnable
  else if d.getLsbD 2 then some .nineBitMode
  else if (b.rxen && !d.getLsbD 4) || (b.txen && !d.getLsbD 3) then some .disableRxTx
  else none

/-- UMSEL of CONTROL_C (R28). -/
def umsel (c : Format) : Bool := c.getLsbD 6

/-- UPM[1:0] of CONTROL_C (R28). -/
def upm (c : Format) : BitVec 2 := c.extractLsb' 4 2

/-- USBS of CONTROL_C (R28). -/
def usbs (c : Format) : Bool := c.getLsbD 3

/-- UCSZ[1:0] of CONTROL_C (R28). -/
def ucsz (c : Format) : BitVec 2 := c.extractLsb' 1 2

/-- UCPOL of CONTROL_C (R28). -/
def ucpol (c : Format) : Bool := c.getLsbD 0

/-- 8-N-1 asynchronous: the one format with a meaning (R29). -/
def frame8n1 : Format := 0x06

/-- `admitted(S)` (R89). -/
def admitted (s : State) : Bool := s.c == frame8n1 && !s.b.ucsz2

end Sys2Proof.Machine
end

