-- ==== Sys2Proof/Machine/Port.lean ====
section
/-! DEFINITION. The register port: what a transaction does, the same whichever master issues it (R73, R87). A read
gives its value and the state after it. -/

namespace Sys2Proof.Machine

/-- RD_DATA (R74). With nothing received the value is free and F5 is raised. -/
def portRdData (s : State) : Byte × State :=
  match s.rxbuf with
  | some v => (v, setFlags (clearErrors s.a) (setRxbuf none s))
  | none => ((draw s).1, raise .rxEmptyRead (draw s).2)

/-- RD_STATUS_A (R76). -/
def portRdStatusA (s : State) : Byte × State := (statusAByte s, s)

/-- RD_CONTROL_B (R78). -/
def portRdControlB (s : State) : Byte × State := (controlBByte s.b, s)

/-- RD_SHARED (R80): a free value, whatever the state. -/
def portRdShared (s : State) : Byte × State := draw s

/-- RD_BAUD_LOW (R83). -/
def portRdBaudLow (s : State) : Byte × State := (s.ubrrl, s)

/-- WR_DATA (R75): F4 before F3 (R131). -/
def portWrData (d : Byte) (s : State) : State :=
  if !s.b.txen then raise .txDisabled s
  else
    match s.txbuf with
    | some _ => raise .txOverwrite s
    | none => setTxbuf (some d) s

/-- WR_STATUS_A (R77): refused for every value. -/
def portWrStatusA (_d : Byte) (s : State) : State := refuse .writeStatusA s

/-- WR_CONTROL_B (R79). -/
def portWrControlB (d : Byte) (s : State) : State :=
  match controlBRefusal d s.b with
  | some r => refuse r s
  | none => setEnables (storeEnables d s.b) s

/-- WR_BAUD_HIGH (R81). -/
def portWrBaudHigh (hi : BitVec 7) (s : State) : State :=
  if insideMask s.params (zextHigh hi) then setBaudHigh (zextHigh hi) s
  else refuse .baudHighReservedBits s

/-- WR_CONTROL_C (R82). -/
def portWrControlC (c : Format) (s : State) : State := setFormat c s

/-- WR_BAUD_LOW (R84). -/
def portWrBaudLow (d : Byte) (s : State) : State := setBaudLow d s

/-- A byte written at the shared location goes where its selector says (R14, R147). -/
def portWrShared (d : Byte) (s : State) : State :=
  if selector d then portWrControlC (payload d) s else portWrBaudHigh (payload d) s

end Sys2Proof.Machine
end

