-- ==== Sys2Proof/Machine/Controller.lean ====
section
/-! DEFINITION. The controller's poll state machine: one step per state of R33, each at most one register-port
transaction or one caller-memory fetch (R105 to R119). A transaction that raises a fault or is refused ends the
step there (R127, log entry 13). -/

namespace Sys2Proof.Machine

/-- INIT_WH (R106): the byte div[15:8] is written at the shared location, where its bit 7 selects (R147; DEDUCED, log
entry 18). -/
def stepInitWh (s : State) : State :=
  andThen (portWrShared (highByte s.ctl.div) s) (goto .initWl)

/-- INIT_WL (R107). -/
def stepInitWl (s : State) : State :=
  andThen (portWrBaudLow (lowByte s.ctl.div) s) (goto .initWb)

/-- INIT_WB (R108): CONTROL_B is written with 0x18. -/
def stepInitWb (s : State) : State :=
  andThen (portWrControlB 0x18 s) (goto .initWc)

/-- INIT_WC (R109): the byte 0x86 is written at the shared location. -/
def stepInitWc (s : State) : State :=
  andThen (portWrShared 0x86 s) (goto .idle)

/-- A WAIT_READY step (R111, R114, R118): one STATUS_A read; `flag` picks the bit polled. -/
def stepPoll (flag : Byte → Bool) (ready again : CtlState) (s : State) : State :=
  goto (if flag (portRdStatusA s).1 then ready else again) (portRdStatusA s).2

/-- TX_POLL (R111). -/
def stepTxPoll (s : State) : State := stepPoll udreBit .txAct .txPoll s

/-- TX_ACT (R112). -/
def stepTxAct (s : State) : State :=
  andThen (portWrData s.ctl.byte s) (goto .idle)

/-- RX_POLL (R114). -/
def stepRxPoll (s : State) : State := stepPoll rxcBit .rxAct .rxPoll s

/-- RX_ACT (R115). -/
def stepRxAct (s : State) : State :=
  andThen (portRdData s).2 fun t =>
    setCtl { t.ctl with result := some (portRdData s).1, state := .idle } t

/-- SS_FETCH (R117): the terminator ends the command and is not transmitted. -/
def stepSsFetch (s : State) : State :=
  if memRead s s.ctl.addr = 0 then goto .idle s
  else setCtl { s.ctl with byte := memRead s s.ctl.addr, state := .ssPoll } s

/-- SS_POLL (R118). -/
def stepSsPoll (s : State) : State := stepPoll udreBit .ssAct .ssPoll s

/-- SS_ACT (R119): past address 0xFFFF the command raises F9, after the write. -/
def stepSsAct (s : State) : State :=
  andThen (portWrData s.ctl.byte s) fun t =>
    if t.ctl.addr = 0xFFFF then raise .stringWrap t
    else setCtl { t.ctl with addr := t.ctl.addr + 1, state := .ssFetch } t

/-- The controller's step; in IDLE it has none (R102, R120), and its turn changes nothing (DEDUCED, safe, log entry
3). -/
def controllerStep (s : State) : State :=
  match s.ctl.state with
  | .idle => s
  | .initWh => stepInitWh s
  | .initWl => stepInitWl s
  | .initWb => stepInitWb s
  | .initWc => stepInitWc s
  | .txPoll => stepTxPoll s
  | .txAct => stepTxAct s
  | .rxPoll => stepRxPoll s
  | .rxAct => stepRxAct s
  | .ssFetch => stepSsFetch s
  | .ssPoll => stepSsPoll s
  | .ssAct => stepSsAct s

end Sys2Proof.Machine
end

