-- ==== Sys2Proof/Machine/Commands.lean ====
section
/-! DEFINITION. The four controller commands: the acceptance step of each (R102). The register accesses that follow
are the controller's steps (R106 to R119). -/

namespace Sys2Proof.Machine

/-- INIT's acceptance (R103): the divisor, or its fault and nothing else. -/
def acceptInit (baud : Baud) (s : State) : State :=
  match divisor s.params (baudRate baud) with
  | .error f => raise f s
  | .ok d => setCtl { s.ctl with div := d, state := .initWh } s

/-- TX's acceptance (R110). -/
def acceptTx (byte : Byte) (s : State) : State :=
  setCtl { s.ctl with byte := byte, state := .txPoll } s

/-- RX's acceptance (R113). -/
def acceptRx (s : State) : State :=
  setCtl { s.ctl with result := none, state := .rxPoll } s

/-- SENDSTR's acceptance (R116). -/
def acceptSendstr (addr : Addr) (s : State) : State :=
  setCtl { s.ctl with addr := addr, state := .ssFetch } s

/-- INIT (R102, R103). -/
def execInit (baud : Baud) (s : State) : Out := hostCommand s (acceptInit baud)

/-- TX (R102, R110). -/
def execTx (byte : Byte) (s : State) : Out := hostCommand s (acceptTx byte)

/-- RX (R102, R113). -/
def execRx (s : State) : Out := hostCommand s acceptRx

/-- SENDSTR (R102, R116). -/
def execSendstr (addr : Addr) (s : State) : Out := hostCommand s (acceptSendstr addr)

end Sys2Proof.Machine
end

