-- ==== Sys2Proof/Machine/RegisterPort.lean ====
section
/-! DEFINITION. The 11 register-port transactions issued by the host (R73 to R84): ownership first (R88), then the
transaction's own rule; a read's value goes to the host. -/

namespace Sys2Proof.Machine

/-- A host read: the value the port gives goes to the host (R73), also where the read raised a fault (R74). -/
def hostRead (port : State → Byte × State) (s : State) : Out :=
  hostTransaction s fun s => giveHost (.read (port s).1) (port s).2

/-- RD_DATA (R74). -/
def execRdData (s : State) : Out := hostRead portRdData s

/-- RD_STATUS_A (R76). -/
def execRdStatusA (s : State) : Out := hostRead portRdStatusA s

/-- RD_CONTROL_B (R78). -/
def execRdControlB (s : State) : Out := hostRead portRdControlB s

/-- RD_SHARED (R80). -/
def execRdShared (s : State) : Out := hostRead portRdShared s

/-- RD_BAUD_LOW (R83). -/
def execRdBaudLow (s : State) : Out := hostRead portRdBaudLow s

/-- WR_DATA (R75). -/
def execWrData (d : Byte) (s : State) : Out := hostTransaction s (portWrData d)

/-- WR_STATUS_A (R77). -/
def execWrStatusA (d : Byte) (s : State) : Out := hostTransaction s (portWrStatusA d)

/-- WR_CONTROL_B (R79). -/
def execWrControlB (d : Byte) (s : State) : Out := hostTransaction s (portWrControlB d)

/-- WR_BAUD_HIGH (R81). -/
def execWrBaudHigh (hi : BitVec 7) (s : State) : Out := hostTransaction s (portWrBaudHigh hi)

/-- WR_CONTROL_C (R82). -/
def execWrControlC (c : Format) (s : State) : Out := hostTransaction s (portWrControlC c)

/-- WR_BAUD_LOW (R84). -/
def execWrBaudLow (d : Byte) (s : State) : Out := hostTransaction s (portWrBaudLow d)

end Sys2Proof.Machine
end

