-- ==== Sys2Proof/Machine/Dispatch.lean ====
section
/-! DEFINITION. One arm per instruction: the one call of its meaning. -/

namespace Sys2Proof.Machine

def exec (i : Instr) (s : State) : Host.Outcome State Fault Refusal :=
  match i with
  | .rdData => Sys2Proof.Machine.execRdData s
  | .rdStatusA => Sys2Proof.Machine.execRdStatusA s
  | .rdControlB => Sys2Proof.Machine.execRdControlB s
  | .rdShared => Sys2Proof.Machine.execRdShared s
  | .rdBaudLow => Sys2Proof.Machine.execRdBaudLow s
  | .wrData d => Sys2Proof.Machine.execWrData d s
  | .wrStatusA d => Sys2Proof.Machine.execWrStatusA d s
  | .wrControlB d => Sys2Proof.Machine.execWrControlB d s
  | .wrBaudHigh hi => Sys2Proof.Machine.execWrBaudHigh hi s
  | .wrControlC c => Sys2Proof.Machine.execWrControlC c s
  | .wrBaudLow d => Sys2Proof.Machine.execWrBaudLow d s
  | .init baud => Sys2Proof.Machine.execInit baud s
  | .tx byte => Sys2Proof.Machine.execTx byte s
  | .rx => Sys2Proof.Machine.execRx s
  | .sendstr addr => Sys2Proof.Machine.execSendstr addr s

end Sys2Proof.Machine
end

