-- ==== Sys2Proof/Machine/Engine.lean ====
section
/-! DEFINITION. The serial engine: the transmitter's two steps (R91, R92) and the receiver's (R94), each under the
admitted frame format only (R89). -/

namespace Sys2Proof.Machine

/-- The enabling condition of TX_LOAD (R91). -/
def txLoadEnabled (s : State) : Bool := s.b.txen && s.txbuf.isSome && s.txshift.isNone

/-- The enabling condition of TX_DONE (R92). -/
def txDoneEnabled (s : State) : Bool := s.txshift.isSome

/-- The first check of an enabled engine step (R89): N8 unless the format is admitted. -/
def whenAdmitted (s : State) (k : State → State) : State :=
  if admitted s then k s else refuse .frameNotAdmitted s

/-- TX_LOAD (R91): the byte enters the shift stage with the divisor and format of this moment. -/
def txLoad (s : State) : State :=
  whenAdmitted s fun s =>
    setTxbuf none (setTxshift (s.txbuf.map fun d => { byte := d, ubrr := ubrr s, c := s.c }) s)

/-- TXC becomes 1 when a byte has left and none waits (R17, R92). -/
def completeTx (s : State) : State :=
  if s.txbuf.isNone then setFlags { s.a with txc := true } s else s

/-- TX_DONE (R92): the byte in the shift stage becomes a transmit event. -/
def txDone (s : State) : State :=
  whenAdmitted s fun s =>
    match s.txshift with
    | none => s
    | some e => completeTx (setTxshift none (emit e s))

/-- The transmitter's step, if it has one; the two are never enabled at once (R90, R92). Where it has none, its turn
changes nothing (DEDUCED, safe, log entry 3). -/
def transmitterStep (s : State) : State :=
  if txDoneEnabled s then txDone s
  else if txLoadEnabled s then txLoad s
  else s

/-- RX_FRAME (R94). A frame offered while RXEN = 0 never reaches the block. An arrival while a byte is held sets
DOR, loses the new byte and raises F6. -/
def receiverStep (b : Byte) (fe : Bool) (s : State) : State :=
  if !s.b.rxen then s
  else
    whenAdmitted s fun s =>
      match s.rxbuf with
      | none => setFlags (frameErrors fe s.a) (setRxbuf (some b) s)
      | some _ => raise .rxOverrun (setFlags { s.a with dor := true } s)

end Sys2Proof.Machine
end

