-- ==== Sys2Proof/Machine/Moves.lean ====
section
/-! DEFINITION. What each move of the interleaving does (R52, R137), and the turn an agent of the block takes when
no move is scheduled. -/

namespace Sys2Proof.Machine

/-- A word that spells no transaction or command: ownership is checked before decode (R131). -/
def rejectWord (w : PortWord) (r : RefusalCode) (s : State) : Out :=
  match w with
  | .bus _ => hostTransaction s (refuse r)
  | .cmd _ => hostCommand s (refuse r)

/-- The host's word arrives on its port and is decoded (R61, R63): the decoded instruction runs. -/
def offerWord (w : PortWord) (s : State) : Out :=
  match decode w with
  | .ok i => exec i s
  | .error r => rejectWord w r s

/-- A platform access (R42): at one of the block's five addresses it is the register transaction of that location;
at any other it does not reach the block. DEDUCED (safe, log entry 19). -/
def platformAccess (address : Nat) (write : Option Byte) (s : State) : Out :=
  match locationAt s.params address with
  | some r => offerWord (accessWord r write) s
  | none => whenLive s fun s => s

/-- The host reads `busy`, without side effect (R122). -/
def readBusy (s : State) : State := giveHost (.busy (busy s)) s

/-- The host reads `result` (R122): with none held it gets a free value and F10 is raised. -/
def readResult (s : State) : State :=
  match s.ctl.result with
  | some v => giveHost (.result v) s
  | none => giveHost (.result (draw s).1) (raise .noResult (draw s).2)

/-- A running SENDSTR has still to fetch the byte at `a` (R56). DEDUCED (log entry 10): fetches go upward from
`ctl.addr` and never wrap (R119), so a byte below the fetch address is not one of them. -/
def awaitsFetch (s : State) (a : Addr) : Bool :=
  match s.ctl.state with
  | .ssFetch => decide (s.ctl.addr ≤ a)
  | .ssPoll | .ssAct => decide (s.ctl.addr < a)
  | .idle | .initWh | .initWl | .initWb | .initWc => false
  | .txPoll | .txAct | .rxPoll | .rxAct => false

/-- The host writes a byte of caller memory (R137). -/
def storeByte (a : Addr) (b : Byte) (s : State) : State := setMem (memPut s.mem a.toNat b) s

/-- The host's write, unless it is to a byte a running SENDSTR has still to fetch: there is no such move (R56). -/
def writeCallerMemory (a : Addr) (b : Byte) (s : State) : Out :=
  if live s && awaitsFetch s a then .refused (.callerMemoryInUse a)
  else whenLive s (storeByte a b)

/-- The step of an agent of the block, if it has one (R90, R120). -/
def agentStep (g : Agent) (s : State) : State :=
  match g with
  | .controller => controllerStep s
  | .transmitter => transmitterStep s

/-- What a move does. In a faulted or refused state the host's reads have no step either (DEDUCED, safe, log entry
15). -/
def perform (m : Move) (s : State) : Out :=
  match m with
  | .offer w => offerWord w s
  | .access address write => platformAccess address write s
  | .readBusy => whenLive s readBusy
  | .readResult => whenLive s readResult
  | .writeMem a b => writeCallerMemory a b s
  | .frame b fe => whenLive s (receiverStep b fe)
  | .turn g => whenLive s (agentStep g)
  | .reset => .next (resetBlock s)

/-- The other agent. -/
def otherAgent : Agent → Agent
  | .controller => .transmitter
  | .transmitter => .controller

/-- With no move scheduled the two agents take turns; the transmitter takes none if `tx_clock_runs` is false (R93).
DESIGN CHOICE, log entries 2 and 7: it is one fair order among all, and the orders R154 admits are those of `FairRun`
in Safety.lean. -/
def defaultTurn (s : State) : State :=
  match s.turn with
  | .controller => setTurn .transmitter (agentStep .controller s)
  | .transmitter =>
    setTurn .controller (if s.params.txClockRuns then agentStep .transmitter s else s)

end Sys2Proof.Machine
end

