-- ==== Sys2Proof/Machine/Step.lean ====
section
/-! DEFINITION. One step of the block: the next scheduled move, taken off the schedule, or the turn of one of the
block's own agents where nothing is scheduled (R52). The word of an instruction is the host's move `offer`. -/

namespace Sys2Proof.Machine

def step (s : State) : Host.Outcome State Fault Refusal :=
  match s.schedule with
  | [] => whenLive s defaultTurn
  | m :: rest => perform m (setSchedule rest s)

/-- The host's next move is to offer the word of an opcode-table row on its port. DESIGN CHOICE (safe, log entry 16):
words come from the host, and the block fetches none. -/
def State.withFetchWord (s : State) (nbits w : Nat) : State :=
  setSchedule (.offer (tableWord nbits w) :: s.schedule) s

end Sys2Proof.Machine
end

