-- ==== Sys2Proof/Safety.lean ====
section
/-! DEFINITION. What counts as a safe run: the final states (R155), the invariant of the block (R37), extended by
what the write rules make true of the parameters, the memory, the controller and the line, the states a run reaches,
and the infinite runs that meet the progress assumptions of R154. -/

namespace Sys2Proof.Machine

/-- No fault and no refusal is recorded (R128, R130): agents have steps. -/
abbrev State.Live (s : State) : Prop := s.faults = [] ∧ s.refused = none

/-- The host may issue transactions and commands: a live state with the controller IDLE (R88, R102). -/
abbrev State.HostReady (s : State) : Prop := s.Live ∧ s.ctl.state = .idle

/-- A final state (R155). -/
structure State.Final (s : State) : Prop where
  noFault : s.faults = []
  notRefused : s.refused = none
  idle : s.ctl.state = .idle
  bufferEmpty : s.txbuf = none
  shiftEmpty : s.txshift = none

/-- An event the transmitter can have made: the admitted format (R89), a divisor whose high byte lies inside
`ubrrh_mask` (R30). -/
structure EventOk (p : Params) (e : TxEvent) : Prop where
  format : e.c = frame8n1
  divisor : insideMask p (highByte e.ubrr) = true

/-- The invariant of the block. -/
structure State.Inv (s : State) : Prop where
  /-- The parameters meet R6. -/
  params : s.params.Valid
  /-- The caller memory keeps its canonical form. -/
  memory : Memory.wf s.mem
  /-- One step raises at most one fault or one refusal, and none follows it (R128, R130, R131). -/
  oneFault : s.faults.length ≤ 1
  /-- See `oneFault`. -/
  oneOutcome : s.faults = [] ∨ s.refused = none
  /-- R37 item 2, CONTROL_B. -/
  heldB : s.b.rxcie = false ∧ s.b.txcie = false ∧ s.b.udrie = false ∧ s.b.ucsz2 = false ∧ s.b.rxb8 = false
  /-- R37 item 2, STATUS_A. -/
  heldA : s.a.u2x = false ∧ s.a.mpcm = false ∧ s.a.pe = false
  /-- R20: DOR is 1 only with F6 recorded. -/
  overrun : s.a.dor = true → FaultCode.rxOverrun ∈ s.faults
  /-- R37 item 3. -/
  baudHigh : insideMask s.params s.ubrrh = true
  /-- R101: the divisor INIT holds is loadable. -/
  divLoadable : insideMask s.params (highByte s.ctl.div) = true
  /-- R37 item 4. -/
  txEnabled : s.txbuf ≠ none ∨ s.txshift ≠ none → s.b.txen = true
  /-- R37 item 5. -/
  rxEnabled : s.rxbuf ≠ none → s.b.rxen = true
  /-- R37 item 6. -/
  frameError : s.a.fe = true → rxc s = true
  /-- R85: the poll's UDRE still holds at the act of a Transmit. -/
  txActReady : s.ctl.state = .txAct → s.txbuf = none
  /-- R85, for a SendString byte, until the act has raised a fault (R119). -/
  ssActReady : s.ctl.state = .ssAct → s.faults = [] → s.txbuf = none
  /-- R86: the poll's RXC still holds at the act of a Receive. -/
  rxActReady : s.ctl.state = .rxAct → rxc s = true
  /-- R117: SendString never sends the terminator. -/
  notTerminator : s.ctl.state = .ssPoll ∨ s.ctl.state = .ssAct → s.ctl.byte ≠ 0
  /-- The byte in the shift stage was loaded under the admitted format (R91). -/
  shiftOk : ∀ e, s.txshift = some e → EventOk s.params e
  /-- So was every byte on the line (R92). -/
  lineOk : ∀ e ∈ s.txline, EventOk s.params e

/-- The states of a run (R52, R143): a launch with valid parameters, any caller memory and any schedule, and what
every step leads to. -/
inductive State.Reachable : State → Prop
  | launch (p : Params) (mem : Memory) (moves : List Move) :
      p.Valid → Memory.wf mem → State.Reachable (setSchedule moves (State.launch p mem))
  | step (s t : State) : State.Reachable s → Machine.step s = .next t → State.Reachable t

/-- An infinite run (R52, R132): the state before each move, and the moves, in any order. A run that waits, or whose
host has ended its program, goes on with turns that change nothing, so that no order is left out; one that ends in a
fault or a refusal is not infinite, since no move but reset follows (R128, R130). -/
structure IsRun (states : Nat → State) (moves : Nat → Move) : Prop where
  /-- Each state is what the move before it leaves. -/
  next : ∀ n, perform (moves n) (states n) = .next (states (n + 1))

/-- The steps that carry a progress assumption: the controller's, and the transmitter's two (R154). The receiver and the
host are under none (R95, R137). -/
inductive FairStep where
  | controller
  | txLoad
  | txDone
  deriving DecidableEq, Repr

/-- The agent that takes the step. -/
def FairStep.agent : FairStep → Agent
  | .controller => .controller
  | .txLoad | .txDone => .transmitter

/-- The step is enabled: no fault and no refusal is recorded, and the agent has this step (R91, R92, R120). -/
def FairStep.enabled (k : FairStep) (s : State) : Bool :=
  live s &&
    match k with
    | .controller => busy s
    | .txLoad => txLoadEnabled s
    | .txDone => txDoneEnabled s

/-- Weak fairness (R93, R120): if the step stays enabled from some point on, its agent takes a turn at or after that
point, and the step is then the one it takes. -/
def WeaklyFair (k : FairStep) (states : Nat → State) (moves : Nat → Move) : Prop :=
  ∀ n, (∀ m, n ≤ m → k.enabled (states m) = true) → ∃ m, n ≤ m ∧ moves m = .turn k.agent

/-- The progress assumptions, and all of them (R154): the controller's steps are weakly fair; the transmitter's are
exactly where `tx_clock_runs` is true. -/
structure FairRun (states : Nat → State) (moves : Nat → Move) : Prop where
  run : IsRun states moves
  controller : WeaklyFair .controller states moves
  transmitter : (states 0).params.txClockRuns = true →
    WeaklyFair .txLoad states moves ∧ WeaklyFair .txDone states moves

/-- A move by which the host neither gives the block a word nor resets it nor writes its own memory: an agent's turn, a
frame, or a read of `busy` or `result`. -/
def Move.undisturbing : Move → Bool
  | .turn _ | .frame _ _ | .readBusy | .readResult => true
  | .offer _ | .access _ _ | .writeMem _ _ | .reset => false

/-- The moves of the default turns (log entry 2): the agent named first, then the other, and so on. -/
def alternating (first : Agent) : Nat → Move
  | 0 => .turn first
  | n + 1 => alternating (otherAgent first) n

/-- A zero-terminated sequence in caller memory (R116): the bytes `bs`, none of them zero, stand at `a` and on, a zero
byte follows them, and all of it lies below the end of the 16-bit space. -/
def stringAt (m : Memory) (a : Nat) : List Byte → Prop
  | [] => a < 65536 ∧ memGet m a = 0
  | b :: bs => memGet m a = b ∧ b ≠ 0 ∧ stringAt m (a + 1) bs

end Sys2Proof.Machine
end

