-- ==== Sys2Proof/Certificates/Slice0/Obligations.lean ====
section
/-! DEFINITION. The statements for the provers. Each docstring names the rules of spec/ it formalises. Where a
statement gives a whole next state as an update of the state before, every field it does not name is unchanged. -/

open Sys2Proof Sys2Proof.Machine

/-! Encoding (30_encoding.md). -/

/-- Decoding the word of any instruction, with every operand at every value, gives it back (R60 to R65). -/
def Obligations.DecodeEncodeAgree : Prop :=
  ∀ i : Instr, decode (encode i) = .ok i

/-- A word that decodes is the word of the instruction it decodes to: each meaning has one spelling (R61, R63, R65). -/
def Obligations.EncodeDecodeAgree : Prop :=
  ∀ (w : PortWord) (i : Instr), decode w = .ok i → encode i = w

/-- R66 to R68: exactly the reserved words are refused, BUS16 words with N1 and CMD32 words with N2. -/
def Obligations.ReservedWordsRefused : Prop :=
  (∀ w : BusWord, decodeBus w = .error .reservedBusWord ↔
    (5 ≤ (w.extractLsb' 8 3).toNat ∨ w.extractLsb' 11 4 ≠ 0 ∨
      (w.getLsbD 15 = false ∧ w.extractLsb' 0 8 ≠ 0))) ∧
  (∀ w : CmdWord, decodeCmd w = .error .reservedCommand ↔
    (w.extractLsb' 24 8 = 0 ∨ 5 ≤ (w.extractLsb' 24 8).toNat ∨
      (w.extractLsb' 24 8 = 2 ∧ w.extractLsb' 8 16 ≠ 0) ∨
      (w.extractLsb' 24 8 = 3 ∧ w.extractLsb' 0 24 ≠ 0) ∨
      (w.extractLsb' 24 8 = 4 ∧ w.extractLsb' 16 8 ≠ 0)))

/-- The decoder accepts exactly the words of the opcode table's rows, and the instruction it reads carries the
mnemonic of the row the word matches (spec/opcode_table.json, R65). -/
def Obligations.DecoderMatchesOpcodeTable : Prop :=
  (∀ (w : BusWord) (name : String),
    (∃ i, decodeBus w = .ok i ∧ i.mnemonic = name) ↔
      ∃ row ∈ busRows, row.mnemonic = name ∧ w &&& row.mask = row.pattern) ∧
  (∀ (w : CmdWord) (name : String),
    (∃ i, decodeCmd w = .ok i ∧ i.mnemonic = name) ↔
      ∃ row ∈ cmdRows, row.mnemonic = name ∧ w &&& row.mask = row.pattern)

/-- R65 on one word of each row, the operand bits written out. -/
def Obligations.SpecWordsDecode : Prop :=
  decodeTableWord 16 0x0000 = some .rdData ∧
  decodeTableWord 16 0x0100 = some .rdStatusA ∧
  decodeTableWord 16 0x0200 = some .rdControlB ∧
  decodeTableWord 16 0x0300 = some .rdShared ∧
  decodeTableWord 16 0x0400 = some .rdBaudLow ∧
  decodeTableWord 16 0x8048 = some (.wrData 0x48) ∧
  decodeTableWord 16 0x8140 = some (.wrStatusA 0x40) ∧
  decodeTableWord 16 0x8218 = some (.wrControlB 0x18) ∧
  decodeTableWord 16 0x837F = some (.wrBaudHigh 0x7F) ∧
  decodeTableWord 16 0x8386 = some (.wrControlC 0x06) ∧
  decodeTableWord 16 0x8433 = some (.wrBaudLow 0x33) ∧
  decodeTableWord 32 0x01004B00 = some (.init 19200) ∧
  decodeTableWord 32 0x02000041 = some (.tx 0x41) ∧
  decodeTableWord 32 0x03000000 = some .rx ∧
  decodeTableWord 32 0x04000100 = some (.sendstr 0x0100)

/-- R72: each pseudo-instruction expands to the words shown, for every operand in its range; LDBAUD needs its high
byte inside `ubrrh_mask`. -/
def Obligations.PseudoInstructionsExpand : Prop :=
  (∀ (mask : Byte) (d : Nat), d < 256 →
    assemble mask (.wrShared (.num d)) = some [.bus (BitVec.ofNat 16 (0x8300 + d))]) ∧
  (∀ (mask : Byte) (d : Nat), d < 65536 →
    mask ∈ [0x00#8, 0x01#8, 0x03#8, 0x07#8, 0x0F#8, 0x1F#8, 0x3F#8, 0x7F#8] →
    BitVec.ofNat 8 (d / 256) &&& ~~~mask = 0 →
    assemble mask (.ldbaud (.num d)) =
      some [.bus (BitVec.ofNat 16 (0x8300 + d / 256)), .bus (BitVec.ofNat 16 (0x8400 + d % 256))]) ∧
  (∀ mask : Byte, assemble mask .frame8n1 = some [.bus 0x8386]) ∧
  (∀ mask : Byte, assemble mask .enrxtx = some [.bus 0x8218])

/-! The step (20_memory.md, 42_controller.md, 60_exceptions.md). -/

/-- What a step is. With a move scheduled it is that move, in the state with the move taken off the schedule; where the
move offers a word that decodes to an instruction, that is the instruction's `exec`, in particular for a word placed by
`withFetchWord`. With nothing scheduled it is the turn of the agent whose turn it is, and then the other's; the
transmitter takes none if `tx_clock_runs` is false. The schedule and the default turns are the model's choice (log
entries 2, 7 and 16). -/
def Obligations.StepRunsDecodedInstruction : Prop :=
  (∀ (s : State) (m : Move) (rest : List Move), s.schedule = m :: rest →
    step s = perform m { s with schedule := rest }) ∧
  (∀ (s : State) (w : PortWord) (i : Instr) (rest : List Move),
    s.schedule = .offer w :: rest → decode w = .ok i →
    step s = exec i { s with schedule := rest }) ∧
  (∀ (s : State) (nbits w : Nat) (i : Instr),
    decodeTableWord nbits w = some i → step (s.withFetchWord nbits w) = exec i s) ∧
  (∀ s : State, s.Live → s.schedule = [] →
    (s.turn = .controller → ∃ t, perform (.turn .controller) s = .next t ∧
      step s = .next { t with turn := .transmitter }) ∧
    (s.turn = .transmitter → s.params.txClockRuns = true → ∃ t, perform (.turn .transmitter) s = .next t ∧
      step s = .next { t with turn := .controller }) ∧
    (s.turn = .transmitter → s.params.txClockRuns = false → step s = .next { s with turn := .controller }))

/-- R88, R102 and R131: while the controller is not IDLE, any host BUS16 word, reserved ones too, raises F8, and any
CMD32 word F7, with no other effect. -/
def Obligations.OwnershipBeforeDecode : Prop :=
  ∀ s : State, s.Live → s.ctl.state ≠ .idle →
    (∀ w : BusWord, perform (.offer (.bus w)) s = .next { s with faults := [.busContention] }) ∧
    (∀ w : CmdWord, perform (.offer (.cmd w)) s = .next { s with faults := [.cmdBusy] })

/-- R129 on undecodable words: with the controller IDLE the reason is recorded, and nothing else changes. -/
def Obligations.ReservedWordRecorded : Prop :=
  ∀ (s : State) (w : PortWord) (r : RefusalCode), s.HostReady → decode w = .error r →
    perform (.offer w) s = .next { s with refused := some r }

/-- R69: what the well-formedness check refuses, the instruction's own rule refuses with the same reason; the
instruction then completes with that reason recorded and nothing else changed. -/
def Obligations.ValueRefusalsRecorded : Prop :=
  ∀ (s : State) (i : Instr) (r : RefusalCode), s.HostReady → i.valueRefusal s.params.ubrrhMask = some r →
    exec i s = .next { s with refused := some r }

/-- R128, R130 and R144: in a faulted or refused state no move and no turn has a step, but reset does. -/
def Obligations.FaultedIsQuiescent : Prop :=
  ∀ s : State,
    (s.faults ≠ [] → (∀ m : Move, m ≠ .reset → perform m s = .fault (.faulted s.faults)) ∧
      (s.schedule = [] → step s = .fault (.faulted s.faults))) ∧
    (∀ r, s.faults = [] → s.refused = some r →
      (∀ m : Move, m ≠ .reset → perform m s = .refused (.formRefused r)) ∧
      (s.schedule = [] → step s = .refused (.formRefused r))) ∧
    (∃ t, perform .reset s = .next t ∧ t.Live)

/-! Register-port transactions (40_register_access.md). -/

/-- R74: RD_DATA gives the received byte to the host, empties the buffer and clears FE, PE and DOR; with nothing
received it gives some value and raises F5. -/
def Obligations.RdDataResult : Prop :=
  ∀ s : State, s.HostReady →
    (∀ v, s.rxbuf = some v → exec .rdData s = .next
      { s with rxbuf := none, a := { s.a with fe := false, pe := false, dor := false },
               returned := s.returned ++ [.read v] }) ∧
    (s.rxbuf = none → ∃ v, exec .rdData s = .next
      { s with faults := [.rxEmptyRead], returned := s.returned ++ [.read v], draws := s.draws + 1 })

/-- R75: WR_DATA fills the empty transmit buffer; F4 when the transmitter is disabled, F3 when the buffer is full,
and then the byte is not stored. -/
def Obligations.WrDataResult : Prop :=
  ∀ (s : State) (d : Byte), s.HostReady →
    (s.b.txen = false → exec (.wrData d) s = .next { s with faults := [.txDisabled] }) ∧
    (s.b.txen = true → s.txbuf ≠ none → exec (.wrData d) s = .next { s with faults := [.txOverwrite] }) ∧
    (s.b.txen = true → s.txbuf = none → exec (.wrData d) s = .next { s with txbuf := some d })

/-- R76: RD_STATUS_A gives the eight flags, bit 7 RXC down to bit 0 MPCM, and changes no flag. -/
def Obligations.RdStatusAResult : Prop :=
  ∀ s : State, s.HostReady → ∃ v : Byte,
    exec .rdStatusA s = .next { s with returned := s.returned ++ [.read v] } ∧
    v.getLsbD 7 = s.rxbuf.isSome ∧ v.getLsbD 6 = s.a.txc ∧ v.getLsbD 5 = s.txbuf.isNone ∧ v.getLsbD 4 = s.a.fe ∧
    v.getLsbD 3 = s.a.dor ∧ v.getLsbD 2 = s.a.pe ∧ v.getLsbD 1 = s.a.u2x ∧ v.getLsbD 0 = s.a.mpcm

/-- R77: WR_STATUS_A is refused for every value. -/
def Obligations.WrStatusAResult : Prop :=
  ∀ (s : State) (d : Byte), s.HostReady →
    exec (.wrStatusA d) s = .next { s with refused := some .writeStatusA }

/-- R78: RD_CONTROL_B gives the enables, bit 1 (RXB8) reading 0, and changes nothing. -/
def Obligations.RdControlBResult : Prop :=
  ∀ s : State, s.HostReady → ∃ v : Byte,
    exec .rdControlB s = .next { s with returned := s.returned ++ [.read v] } ∧
    v.getLsbD 7 = s.b.rxcie ∧ v.getLsbD 6 = s.b.txcie ∧ v.getLsbD 5 = s.b.udrie ∧ v.getLsbD 4 = s.b.rxen ∧
    v.getLsbD 3 = s.b.txen ∧ v.getLsbD 2 = s.b.ucsz2 ∧ v.getLsbD 1 = false ∧ v.getLsbD 0 = s.b.txb8

/-- R79: WR_CONTROL_B refuses, in this order, an interrupt enable (N4), UCSZ2 (N5), a disable (N6); otherwise it stores
RXEN, TXEN and TXB8. -/
def Obligations.WrControlBResult : Prop :=
  ∀ (s : State) (d : Byte), s.HostReady →
    exec (.wrControlB d) s = .next
      (if d.getLsbD 7 = true ∨ d.getLsbD 6 = true ∨ d.getLsbD 5 = true then
        { s with refused := some .interruptEnable }
      else if d.getLsbD 2 = true then { s with refused := some .nineBitMode }
      else if (s.b.rxen = true ∧ d.getLsbD 4 = false) ∨ (s.b.txen = true ∧ d.getLsbD 3 = false) then
        { s with refused := some .disableRxTx }
      else { s with b := { s.b with rxen := d.getLsbD 4, txen := d.getLsbD 3, txb8 := d.getLsbD 0 } })

/-- R80: RD_SHARED gives some value, whatever the state, and changes nothing of the block. The value is free: the
statement holds for every value of it. -/
def Obligations.RdSharedResult : Prop :=
  ∀ s : State, s.HostReady → ∃ v : Byte,
    exec .rdShared s = .next { s with returned := s.returned ++ [.read v], draws := s.draws + 1 }

/-- R81: WR_BAUD_HIGH stores its seven bits, or is refused (N7) if one lies outside `ubrrh_mask`. -/
def Obligations.WrBaudHighResult : Prop :=
  ∀ (s : State) (hi : BitVec 7), s.HostReady →
    exec (.wrBaudHigh hi) s = .next
      (if (hi.setWidth 8) &&& ~~~s.params.ubrrhMask ≠ 0 then { s with refused := some .baudHighReservedBits }
      else { s with ubrrh := hi.setWidth 8 })

/-- R82: WR_CONTROL_C stores the seven bits, whatever they are. -/
def Obligations.WrControlCResult : Prop :=
  ∀ (s : State) (c : Format), s.HostReady → exec (.wrControlC c) s = .next { s with c := c }

/-- R83 and R84: RD_BAUD_LOW gives the stored byte, and WR_BAUD_LOW stores any byte. -/
def Obligations.BaudLowResults : Prop :=
  ∀ s : State, s.HostReady →
    exec .rdBaudLow s = .next { s with returned := s.returned ++ [.read s.ubrrl] } ∧
    ∀ d : Byte, exec (.wrBaudLow d) s = .next { s with ubrrl := d }

/-- The frame of the 11 transactions (R50, R73): whenever one answers a next state, faults and refusals included, the
fields of its own rule may have changed and nothing else has; no byte of caller memory has; a read gives the host at
most one value, after those it had, and a write gives none. -/
def Obligations.TransactionFrame : Prop :=
  let atMostOneValue (s t : State) := t.returned = s.returned ∨ ∃ v, t.returned = s.returned ++ [.read v]
  (∀ s t : State, exec .rdData s = .next t →
    t = { s with rxbuf := t.rxbuf, a := { s.a with fe := t.a.fe, pe := t.a.pe, dor := t.a.dor }, faults := t.faults,
                 returned := t.returned, draws := t.draws } ∧ atMostOneValue s t ∧ ∀ a, memRead t a = memRead s a) ∧
  (∀ (s t : State) (i : Instr), i = .rdStatusA ∨ i = .rdControlB ∨ i = .rdBaudLow → exec i s = .next t →
    t = { s with faults := t.faults, returned := t.returned } ∧ atMostOneValue s t ∧
      ∀ a, memRead t a = memRead s a) ∧
  (∀ s t : State, exec .rdShared s = .next t →
    t = { s with faults := t.faults, returned := t.returned, draws := t.draws } ∧ atMostOneValue s t ∧
      ∀ a, memRead t a = memRead s a) ∧
  (∀ (s t : State) (d : Byte), exec (.wrData d) s = .next t →
    t = { s with txbuf := t.txbuf, faults := t.faults } ∧ ∀ a, memRead t a = memRead s a) ∧
  (∀ (s t : State) (d : Byte), exec (.wrStatusA d) s = .next t →
    t = { s with faults := t.faults, refused := t.refused } ∧ ∀ a, memRead t a = memRead s a) ∧
  (∀ (s t : State) (d : Byte), exec (.wrControlB d) s = .next t →
    t = { s with b := { s.b with rxen := t.b.rxen, txen := t.b.txen, txb8 := t.b.txb8 }, faults := t.faults,
                 refused := t.refused } ∧ ∀ a, memRead t a = memRead s a) ∧
  (∀ (s t : State) (hi : BitVec 7), exec (.wrBaudHigh hi) s = .next t →
    t = { s with ubrrh := t.ubrrh, faults := t.faults, refused := t.refused } ∧
      ∀ a, memRead t a = memRead s a) ∧
  (∀ (s t : State) (c : Format), exec (.wrControlC c) s = .next t →
    t = { s with c := t.c, faults := t.faults } ∧ ∀ a, memRead t a = memRead s a) ∧
  (∀ (s t : State) (d : Byte), exec (.wrBaudLow d) s = .next t →
    t = { s with ubrrl := t.ubrrl, faults := t.faults } ∧ ∀ a, memRead t a = memRead s a)

/-- R42 and R14: a platform access at one of the block's five addresses is the transaction of that location; at any
other address nothing changes. -/
def Obligations.PlatformAccessReachesRegister : Prop :=
  ∀ (s : State), s.params.Valid → s.Live →
    (∀ d, perform (.access s.params.regAddr.data none) s = exec .rdData s ∧
      perform (.access s.params.regAddr.data (some d)) s = exec (.wrData d) s) ∧
    (∀ d, perform (.access s.params.regAddr.statusA none) s = exec .rdStatusA s ∧
      perform (.access s.params.regAddr.statusA (some d)) s = exec (.wrStatusA d) s) ∧
    (∀ d, perform (.access s.params.regAddr.controlB none) s = exec .rdControlB s ∧
      perform (.access s.params.regAddr.controlB (some d)) s = exec (.wrControlB d) s) ∧
    (∀ p : BitVec 7, perform (.access s.params.regAddr.shared none) s = exec .rdShared s ∧
      perform (.access s.params.regAddr.shared (some (0#1 ++ p))) s = exec (.wrBaudHigh p) s ∧
      perform (.access s.params.regAddr.shared (some (1#1 ++ p))) s = exec (.wrControlC p) s) ∧
    (∀ d, perform (.access s.params.regAddr.baudLow none) s = exec .rdBaudLow s ∧
      perform (.access s.params.regAddr.baudLow (some d)) s = exec (.wrBaudLow d) s) ∧
    (∀ n w, n ≠ s.params.regAddr.data → n ≠ s.params.regAddr.statusA → n ≠ s.params.regAddr.controlB →
      n ≠ s.params.regAddr.shared → n ≠ s.params.regAddr.baudLow → perform (.access n w) s = .next s)

/-! Controller commands (42_controller.md). -/

/-- R101: the divisor, for valid parameters; the C idiom `f_clk / 16 / b` gives the same quotient. -/
def Obligations.DivisorComputation : Prop :=
  ∀ (p : Params) (b : Nat), p.Valid →
    (b = 0 → divisor p b = .error .baudZero) ∧
    (b ≠ 0 → p.fClk / (16 * b) = 0 → divisor p b = .error .divisorRange) ∧
    (b ≠ 0 → p.fClk / (16 * b) ≠ 0 → p.ubrrhMask.toNat * 256 + 255 < p.fClk / (16 * b) - 1 →
      divisor p b = .error .divisorRange) ∧
    (b ≠ 0 → p.fClk / (16 * b) ≠ 0 → p.fClk / (16 * b) - 1 ≤ p.ubrrhMask.toNat * 256 + 255 →
      ∃ d : Divisor, divisor p b = .ok d ∧ d.toNat = p.fClk / (16 * b) - 1 ∧
        d.extractLsb' 8 8 &&& ~~~p.ubrrhMask = 0) ∧
    p.fClk / 16 / b = p.fClk / (16 * b)

/-- R97: the nominal rate of the divisor INIT computes for a rate `b` is at least `b`, and less than one divisor step
above it: `16 (d + 1) b <= f_clk < 16 (d + 2) b`; it is exactly `b` when `16 b` divides `f_clk`. -/
def Obligations.NominalRateBounds : Prop :=
  ∀ (p : Params) (b : Nat) (d : Divisor), p.Valid → divisor p b = .ok d →
    16 * (d.toNat + 1) * b ≤ p.fClk ∧ p.fClk < 16 * (d.toNat + 2) * b ∧
    (16 * b ∣ p.fClk → p.fClk = 16 * (d.toNat + 1) * b)

/-- R103: INIT's acceptance holds the divisor and starts the write sequence; where R101 raises a fault, that fault is
recorded, no register is written and the controller stays IDLE. -/
def Obligations.InitAcceptance : Prop :=
  ∀ (s : State) (baud : Baud), s.HostReady →
    (∀ d, divisor s.params baud.toNat = .ok d →
      exec (.init baud) s = .next { s with ctl := { s.ctl with div := d, state := .initWh } }) ∧
    (∀ f, divisor s.params baud.toNat = .error f → exec (.init baud) s = .next { s with faults := [f] })

/-- R110, R113 and R116: the acceptance steps of TX, RX and SENDSTR. -/
def Obligations.TransferAcceptance : Prop :=
  ∀ s : State, s.HostReady →
    (∀ byte : Byte, exec (.tx byte) s = .next { s with ctl := { s.ctl with byte := byte, state := .txPoll } }) ∧
    exec .rx s = .next { s with ctl := { s.ctl with result := none, state := .rxPoll } } ∧
    (∀ addr : Addr, exec (.sendstr addr) s = .next { s with ctl := { s.ctl with addr := addr, state := .ssFetch } })

/-- The frame of the four commands (R102: acceptance performs no register transaction): whenever one answers a next
state, only the controller's registers it names and the fault set may have changed; no byte of caller memory has. -/
def Obligations.CommandFrame : Prop :=
  (∀ (s t : State) (baud : Baud), exec (.init baud) s = .next t →
    t = { s with ctl := { s.ctl with state := t.ctl.state, div := t.ctl.div }, faults := t.faults } ∧
      ∀ a, memRead t a = memRead s a) ∧
  (∀ (s t : State) (byte : Byte), exec (.tx byte) s = .next t →
    t = { s with ctl := { s.ctl with state := t.ctl.state, byte := t.ctl.byte }, faults := t.faults } ∧
      ∀ a, memRead t a = memRead s a) ∧
  (∀ (s t : State), exec .rx s = .next t →
    t = { s with ctl := { s.ctl with state := t.ctl.state, result := t.ctl.result }, faults := t.faults } ∧
      ∀ a, memRead t a = memRead s a) ∧
  (∀ (s t : State) (addr : Addr), exec (.sendstr addr) s = .next t →
    t = { s with ctl := { s.ctl with state := t.ctl.state, addr := t.ctl.addr }, faults := t.faults } ∧
      ∀ a, memRead t a = memRead s a)

/-- R106 to R109: the four steps of Initialize, each one register write. -/
def Obligations.InitWriteSteps : Prop :=
  ∀ s : State, s.Live →
    (s.ctl.state = .initWh → s.ctl.div.extractLsb' 8 8 &&& ~~~s.params.ubrrhMask = 0 → s.params.Valid →
      perform (.turn .controller) s = .next
        { s with ubrrh := s.ctl.div.extractLsb' 8 8, ctl := { s.ctl with state := .initWl } }) ∧
    (s.ctl.state = .initWl → perform (.turn .controller) s = .next
      { s with ubrrl := s.ctl.div.extractLsb' 0 8, ctl := { s.ctl with state := .initWb } }) ∧
    (s.ctl.state = .initWb → perform (.turn .controller) s = .next
      { s with b := { s.b with rxen := true, txen := true, txb8 := false },
               ctl := { s.ctl with state := .initWc } }) ∧
    (s.ctl.state = .initWc → perform (.turn .controller) s = .next
      { s with c := 0x06, ctl := { s.ctl with state := .idle } })

/-- R104: what a whole INIT leaves, run without another agent between its steps: the divisor in the baud registers,
both enables set, the interrupt enables, UCSZ2 and TXB8 clear, 8-N-1; nothing else of the block changed. The second
clause is R123's first: repeated with the same rate it leaves the same block. -/
def Obligations.InitWholeEffect : Prop :=
  ∀ (s : State) (baud : Baud) (d : Divisor) (rest : List Move), s.Inv → s.HostReady →
    divisor s.params baud.toNat = .ok d →
    let turns := [.turn .controller, .turn .controller, .turn .controller, .turn .controller]
    let offer := Move.offer (encode (.init baud))
    let t := { s with
      ubrrh := d.extractLsb' 8 8, ubrrl := d.extractLsb' 0 8
      b := { rxcie := false, txcie := false, udrie := false, rxen := true, txen := true, ucsz2 := false,
             rxb8 := false, txb8 := false }
      c := 0x06, ctl := { s.ctl with div := d, state := .idle }, schedule := rest }
    core.run 5 { s with schedule := offer :: (turns ++ rest) } = .next t ∧
    core.run 5 { t with schedule := offer :: (turns ++ rest) } = .next t

/-- R111, R114 and R118: a WAIT_READY step moves on when the flag it polls is set and otherwise polls again; it
changes nothing else. -/
def Obligations.PollSteps : Prop :=
  ∀ s : State, s.Live →
    (s.ctl.state = .txPoll → perform (.turn .controller) s = .next
      { s with ctl := { s.ctl with state := if s.txbuf = none then .txAct else .txPoll } }) ∧
    (s.ctl.state = .rxPoll → perform (.turn .controller) s = .next
      { s with ctl := { s.ctl with state := if s.rxbuf = none then .rxPoll else .rxAct } }) ∧
    (s.ctl.state = .ssPoll → perform (.turn .controller) s = .next
      { s with ctl := { s.ctl with state := if s.txbuf = none then .ssAct else .ssPoll } })

/-- R112, R115, R117 and R119: the act and fetch steps where the DATA access they make is permitted; past address
0xFFFF SendString raises F9 after the write. -/
def Obligations.ActSteps : Prop :=
  ∀ s : State, s.Live →
    (s.ctl.state = .txAct → s.b.txen = true → s.txbuf = none → perform (.turn .controller) s = .next
      { s with txbuf := some s.ctl.byte, ctl := { s.ctl with state := .idle } }) ∧
    (∀ v, s.ctl.state = .rxAct → s.rxbuf = some v → perform (.turn .controller) s = .next
      { s with rxbuf := none, a := { s.a with fe := false, pe := false, dor := false },
               ctl := { s.ctl with result := some v, state := .idle } }) ∧
    (s.ctl.state = .ssFetch → memRead s s.ctl.addr = 0 → perform (.turn .controller) s = .next
      { s with ctl := { s.ctl with state := .idle } }) ∧
    (s.ctl.state = .ssFetch → memRead s s.ctl.addr ≠ 0 → perform (.turn .controller) s = .next
      { s with ctl := { s.ctl with byte := memRead s s.ctl.addr, state := .ssPoll } }) ∧
    (s.ctl.state = .ssAct → s.b.txen = true → s.txbuf = none → s.ctl.addr ≠ 0xFFFF →
      perform (.turn .controller) s = .next
        { s with txbuf := some s.ctl.byte, ctl := { s.ctl with addr := s.ctl.addr + 1, state := .ssFetch } }) ∧
    (s.ctl.state = .ssAct → s.b.txen = true → s.txbuf = none → s.ctl.addr = 0xFFFF →
      perform (.turn .controller) s = .next { s with txbuf := some s.ctl.byte, faults := [.stringWrap] })

/-- R112 and R119 with R127: an act step that writes DATA while TXEN = 0 raises F4 and changes nothing else; that the
controller also keeps its state there is the model's reading of R127 (log entry 13). -/
def Obligations.ActRaisesTxDisabled : Prop :=
  ∀ s : State, s.Live → s.ctl.state = .txAct ∨ s.ctl.state = .ssAct → s.b.txen = false →
    perform (.turn .controller) s = .next { s with faults := [.txDisabled] }

/-- R122: what the host reads; the result port with nothing held gives some value and raises F10. -/
def Obligations.HostPortReads : Prop :=
  ∀ s : State, s.Live →
    perform .readBusy s = .next { s with returned := s.returned ++ [.busy (decide (s.ctl.state ≠ .idle))] } ∧
    (∀ v, s.ctl.result = some v → perform .readResult s = .next { s with returned := s.returned ++ [.result v] }) ∧
    (s.ctl.result = none → ∃ v, perform .readResult s = .next
      { s with faults := [.noResult], returned := s.returned ++ [.result v], draws := s.draws + 1 })

/-! Serial engine (41_serial_engine.md). -/

/-- R89 and R91: TX_LOAD. -/
def Obligations.TxLoadStep : Prop :=
  ∀ (s : State) (d : Byte), s.Live → s.b.txen = true → s.txbuf = some d → s.txshift = none →
    perform (.turn .transmitter) s = .next
      (if s.c = 0x06 ∧ s.b.ucsz2 = false then
        { s with txshift := some { byte := d, ubrr := s.ubrrh ++ s.ubrrl, c := s.c }, txbuf := none }
      else { s with refused := some .frameNotAdmitted })

/-- R89 and R92: TX_DONE emits the byte with the divisor and format it was loaded with, and sets TXC when no byte
waits. -/
def Obligations.TxDoneStep : Prop :=
  ∀ (s : State) (e : TxEvent), s.Live → s.txshift = some e →
    perform (.turn .transmitter) s = .next
      (if s.c = 0x06 ∧ s.b.ucsz2 = false then
        { s with txline := s.txline ++ [e], txshift := none,
                 a := { s.a with txc := if s.txbuf = none then true else s.a.txc } }
      else { s with refused := some .frameNotAdmitted })

/-- R94: RX_FRAME. A frame offered while RXEN = 0 is no step and leaves no trace; that the move then answers the state
unchanged is how the model says so (log entry 3). -/
def Obligations.RxFrameStep : Prop :=
  ∀ (s : State) (b : Byte) (fe : Bool), s.Live →
    perform (.frame b fe) s = .next
      (if s.b.rxen = false then s
      else if s.c ≠ 0x06 ∨ s.b.ucsz2 = true then { s with refused := some .frameNotAdmitted }
      else if s.rxbuf = none then { s with rxbuf := some b, a := { s.a with fe := fe, pe := false } }
      else { s with a := { s.a with dor := true }, faults := [.rxOverrun] })

/-! Caller memory (20_memory.md). -/

/-- R44 and R56: no move but the host's own write changes a byte of caller memory. That reset (and so power-on) keeps it
too is the model's reading (log entry 14). -/
def Obligations.BlockNeverWritesCallerMemory : Prop :=
  ∀ (s t : State) (m : Move), perform m s = .next t → (∀ a b, m ≠ .writeMem a b) →
    ∀ a, memRead t a = memRead s a

/-- R44: caller memory is read only by the controller's fetch step: any other move but the host's own write does the
same whatever the memory holds, and leaves it. That reset leaves it too is the model's reading (log entry 14). -/
def Obligations.OnlyFetchReadsCallerMemory : Prop :=
  ∀ (s t : State) (m : Move) (mem : Memory), perform m s = .next t → (∀ a b, m ≠ .writeMem a b) →
    (m = .turn .controller → s.ctl.state ≠ .ssFetch) →
    perform m { s with mem := mem } = .next { t with mem := mem }

/-- The host's write of a caller-memory byte (R137): it reads back, every other byte and every field of the block is
unchanged, and a byte a running SENDSTR has still to fetch is refused (R56): one at or above the fetch address before
the fetch, one above it between the fetch and the act. That those are the bytes is the model's reading (log entry 10). -/
def Obligations.HostMemoryWrite : Prop :=
  ∀ (s : State) (a : Addr) (b : Byte), s.Live → Memory.wf s.mem →
    let unfetched := (s.ctl.state = .ssFetch ∧ s.ctl.addr.toNat ≤ a.toNat) ∨
      ((s.ctl.state = .ssPoll ∨ s.ctl.state = .ssAct) ∧ s.ctl.addr.toNat < a.toNat)
    (¬ unfetched → ∃ t, perform (.writeMem a b) s = .next t ∧ t = { s with mem := t.mem } ∧
      Memory.wf t.mem ∧ memRead t a = b ∧ ∀ c, c ≠ a → memRead t c = memRead s c) ∧
    (unfetched → perform (.writeMem a b) s = .refused (.callerMemoryInUse a))

/-! Reset (70_reset_and_hazards.md). -/

/-- R143 and R144: reset, in any state, gives every field of the block its reset value in one step, CONTROL_C and UBRR
that of their parameters. The values the model names for the three registers that hold none (log entry 8) are not
part of it. -/
def Obligations.ResetMove : Prop :=
  ∀ s : State, ∃ t, perform .reset s = .next t ∧
    statusAByte t = 0x20 ∧ controlBByte t.b = 0x00 ∧ t.b.rxb8 = false ∧ t.c = s.params.resetUcsrc ∧
    t.ubrrh ++ t.ubrrl = s.params.resetUbrr ∧ t.txbuf = none ∧ t.txshift = none ∧ t.rxbuf = none ∧
    t.ctl.state = .idle ∧ t.ctl.result = none ∧ t.txline = [] ∧ t.faults = [] ∧ t.refused = none

/-- The state after reset: the values of R143, with the model's own choices for what the spec leaves open: the
parameters (log entries 4 to 7), the controller registers that hold no value (log entry 8), no caller memory listed
and all of it reading 0x00 (log entry 9), nothing scheduled and the controller's turn (log entry 2), nothing drawn or
returned (log entries 11 and 12). -/
def Obligations.ResetStateValues : Prop :=
  statusAByte State.reset = 0x20 ∧ controlBByte State.reset.b = 0x00 ∧ State.reset.b.rxb8 = false ∧
  State.reset.c = 0x06 ∧ State.reset.ubrrh = 0 ∧ State.reset.ubrrl = 0 ∧
  State.reset.txbuf = none ∧ State.reset.txshift = none ∧ State.reset.rxbuf = none ∧
  State.reset.ctl = ⟨.idle, 0, 0, 0, none⟩ ∧ State.reset.txline = [] ∧
  State.reset.faults = [] ∧ State.reset.refused = none ∧
  State.reset.params = ⟨16000000, ⟨0, 1, 2, 3, 4⟩, 0x7F, 0x06, 0x0000, true⟩ ∧
  State.reset.mem = [] ∧ (∀ a, memRead State.reset a = 0x00) ∧
  State.reset.schedule = [] ∧ State.reset.turn = .controller ∧
  State.reset.returned = [] ∧ State.reset.draws = 0

/-! Invariants and whole-machine rules. -/

/-- The state after reset meets the invariant. -/
def Obligations.ResetMeetsInvariant : Prop :=
  State.reset.Inv

/-- Every step keeps the invariant, from every state that meets it. -/
def Obligations.StepKeepsInvariant : Prop :=
  ∀ s t : State, s.Inv → step s = .next t → t.Inv

/-- R37, items 1 to 6, for every run: any valid parameters, any caller memory, any order of moves. -/
def Obligations.ReachableStatesMeetR37 : Prop :=
  ∀ s : State, s.Reachable → s.Live →
    ((statusAByte s).getLsbD 5 = true ↔ s.txbuf = none) ∧ ((statusAByte s).getLsbD 7 = true ↔ s.rxbuf ≠ none) ∧
    s.b.rxcie = false ∧ s.b.txcie = false ∧ s.b.udrie = false ∧ s.b.ucsz2 = false ∧ s.b.rxb8 = false ∧
    s.a.u2x = false ∧ s.a.mpcm = false ∧ s.a.pe = false ∧ s.a.dor = false ∧
    s.ubrrh &&& ~~~s.params.ubrrhMask = 0 ∧
    (s.txbuf ≠ none ∨ s.txshift ≠ none → s.b.txen = true) ∧
    (s.rxbuf ≠ none → s.b.rxen = true) ∧
    (s.a.fe = true → s.rxbuf ≠ none)

/-- R85, R86, R108, R112, R115 and R119: under the invariant a controller step raises no fault but F4 or F9, and is
never refused. -/
def Obligations.ControllerFaultsOnlyTxDisabledOrWrap : Prop :=
  ∀ s t : State, s.Inv → perform (.turn .controller) s = .next t →
    (t.faults = [] ∨ t.faults = [.txDisabled] ∨ t.faults = [.stringWrap]) ∧ t.refused = none

/-- R85: UDRE, once 1, stays 1 until a master writes DATA: the host by a word or a platform access, the controller in
an act state. -/
def Obligations.UdreStable : Prop :=
  ∀ (s t : State) (m : Move), s.txbuf = none → perform m s = .next t →
    (∀ w d, m = .offer w → decode w ≠ .ok (.wrData d)) →
    (∀ d, m ≠ .access s.params.regAddr.data (some d)) →
    (m = .turn .controller → s.ctl.state ≠ .txAct ∧ s.ctl.state ≠ .ssAct) →
    t.txbuf = none

/-- R86: RXC, once 1, stays 1 with its byte until a master reads DATA or reset. -/
def Obligations.RxcStable : Prop :=
  ∀ (s t : State) (m : Move) (v : Byte), s.rxbuf = some v → perform m s = .next t →
    (∀ w, m = .offer w → decode w ≠ .ok .rdData) →
    m ≠ .access s.params.regAddr.data none →
    (m = .turn .controller → s.ctl.state ≠ .rxAct) → m ≠ .reset →
    t.rxbuf = some v

/-- R17: TXC, once 1, stays 1 until reset. -/
def Obligations.TxcClearedOnlyByReset : Prop :=
  ∀ (s t : State) (m : Move), s.a.txc = true → perform m s = .next t → m ≠ .reset → t.a.txc = true

/-- R35: until reset the line history only grows, and only by the byte that was in the shift stage. -/
def Obligations.LineHistoryGrows : Prop :=
  ∀ (s t : State) (m : Move), perform m s = .next t → m ≠ .reset →
    t.txline = s.txline ∨ (m = .turn .transmitter ∧ ∃ e, s.txshift = some e ∧ t.txline = s.txline ++ [e])

/-- R98 and R31: a byte in the shift stage keeps the divisor and the format it was loaded with, through every move
short of reset, until the transmitter puts exactly that event on the line. -/
def Obligations.ShiftStageKeepsItsEvent : Prop :=
  ∀ (s t : State) (m : Move) (e : TxEvent), s.txshift = some e → perform m s = .next t → m ≠ .reset →
    t.txshift = some e ∨ (m = .turn .transmitter ∧ t.txshift = none ∧ t.txline = s.txline ++ [e])

/-- R99 and R32: a byte enters the receive buffer only as the data byte of a frame the line environment offers. -/
def Obligations.ReceivedByteComesFromAFrame : Prop :=
  ∀ (s t : State) (m : Move) (v : Byte), s.rxbuf ≠ some v → perform m s = .next t → t.rxbuf = some v →
    ∃ fe, m = .frame v fe

/-- R6, R26, R27 and R100: no step changes the parameters; no step but reset changes an interrupt enable, UCSZ2 or
RXB8, U2X or MPCM; and no engine move changes CONTROL_B or CONTROL_C. -/
def Obligations.HeldBitsNeverWritten : Prop :=
  (∀ (s t : State) (m : Move), perform m s = .next t → t.params = s.params ∧
    (m ≠ .reset → t.b.rxcie = s.b.rxcie ∧ t.b.txcie = s.b.txcie ∧ t.b.udrie = s.b.udrie ∧
      t.b.ucsz2 = s.b.ucsz2 ∧ t.b.rxb8 = s.b.rxb8 ∧ t.a.u2x = s.a.u2x ∧ t.a.mpcm = s.a.mpcm)) ∧
  (∀ (s t : State) (m : Move), perform m s = .next t → (m = .turn .transmitter ∨ ∃ b fe, m = .frame b fe) →
    t.b = s.b ∧ t.c = s.c)

/-- R155 and R120: in a final state neither agent of the block has a step. That their turns then answer the state
unchanged is how the model says so (log entry 3). -/
def Obligations.FinalStateIsStill : Prop :=
  ∀ s : State, s.Final →
    perform (.turn .controller) s = .next s ∧ perform (.turn .transmitter) s = .next s ∧ s.HostReady

/-! Runs and fairness (R52, R132, R154), and commands as a whole. -/

/-- Runs are what `step` does. Any finite part of any run is the steps of a schedule of its moves. And with nothing
scheduled and the transmit clock running, the steps are a run that meets R154: the default turns (the model's choice,
log entry 2) are one fair order among all. -/
def Obligations.RunsAreWhatStepDoes : Prop :=
  (∀ (states : Nat → State) (moves : Nat → Move) (n : Nat), IsRun states moves →
    core.run n { states 0 with schedule := (List.range n).map moves } = .next { states n with schedule := [] }) ∧
  (∀ (states : Nat → State) (n : Nat), IsRun states (alternating (states 0).turn) →
    (states 0).params.txClockRuns = true →
    FairRun states (alternating (states 0).turn) ∧
      ∃ g, core.run n { states 0 with schedule := [] } = .next { states n with schedule := [], turn := g })

/-- R124: in every run that meets R154, whatever the host and the line do, the controller comes to IDLE, or polls for
ever with its flag clear: RX_POLL with nothing received, TX_POLL or SS_POLL only where the transmit clock does not
run. -/
def Obligations.CommandsEndOrPollForEver : Prop :=
  ∀ (states : Nat → State) (moves : Nat → Move), FairRun states moves → (states 0).Inv →
    (∃ n, (states n).ctl.state = .idle) ∨
    (∃ n, ∀ m, n ≤ m → (states m).ctl.state = .rxPoll ∧ (states m).rxbuf = none) ∨
    ((states 0).params.txClockRuns = false ∧
      ∃ n, ∀ m, n ≤ m →
        ((states m).ctl.state = .txPoll ∨ (states m).ctl.state = .ssPoll) ∧ (states m).txbuf ≠ none)

/-- R110 to R112, R91 and R92 together, in every run that meets R154: a TX offered to a configured, idle block reaches
a final state with its byte as the next event on the line, if the transmit clock runs and the host gives no word,
access, memory write or reset after it; the line may offer frames, and the host may read. -/
def Obligations.TransmitReachesLine : Prop :=
  ∀ (states : Nat → State) (moves : Nat → Move) (byte : Byte), FairRun states moves →
    (states 0).Inv → (states 0).Final → (states 0).params.txClockRuns = true →
    (states 0).b.txen = true → (states 0).c = 0x06 →
    moves 0 = .offer (encode (.tx byte)) → (∀ n, 0 < n → (moves n).undisturbing = true) →
    ∃ n, 0 < n ∧ (states n).Final ∧ (states n).a.txc = true ∧
      (states n).txline = (states 0).txline ++ [⟨byte, (states 0).ubrrh ++ (states 0).ubrrl, 0x06⟩]

/-- R116 to R119 and R125, in every run that meets R154: a SENDSTR offered to a configured, idle block reaches a final
state with exactly the bytes of the zero-terminated sequence on the line, in order, without the terminator, under the
premises of TransmitReachesLine. -/
def Obligations.SendStringSendsExactlyTheString : Prop :=
  ∀ (states : Nat → State) (moves : Nat → Move) (addr : Addr) (bs : List Byte), FairRun states moves →
    (states 0).Inv → (states 0).Final → (states 0).params.txClockRuns = true →
    (states 0).b.txen = true → (states 0).c = 0x06 → stringAt (states 0).mem addr.toNat bs →
    moves 0 = .offer (encode (.sendstr addr)) → (∀ n, 0 < n → (moves n).undisturbing = true) →
    ∃ n, 0 < n ∧ (states n).Final ∧
      (states n).txline = (states 0).txline ++
        bs.map (fun b => ⟨b, (states 0).ubrrh ++ (states 0).ubrrl, 0x06⟩)

/-- R113 to R115 with R94: an RX that waits, then a frame, then the controller's two steps, give the frame's byte as
the result, whatever its framing error. -/
def Obligations.ReceiveReturnsFrameByte : Prop :=
  ∀ (s : State) (v : Byte) (fe : Bool) (rest : List Move), s.HostReady → s.b.rxen = true → s.c = 0x06 →
    s.b.ucsz2 = false → s.rxbuf = none →
    ∃ t, core.run 5 { s with schedule := [.offer (encode .rx), .turn .controller, .frame v fe, .turn .controller,
      .turn .controller] ++ rest } = .next t ∧
      t.ctl.result = some v ∧ t.ctl.state = .idle ∧ t.rxbuf = none ∧ t.Live ∧ t.schedule = rest

/-- R113 and R124: an RX accepted while the receiver is disabled never ends: whatever is scheduled short of reset,
after every step that answers a next state the controller still polls, nothing is received and the receiver is still
disabled (a host word in that time is F7 or F8). -/
def Obligations.ReceiveBeforeInitWaits : Prop :=
  ∀ s t : State, s.ctl.state = .rxPoll → s.rxbuf = none → s.b.rxen = false → step s = .next t →
    (∀ rest, s.schedule ≠ .reset :: rest) →
    t.ctl.state = .rxPoll ∧ t.rxbuf = none ∧ t.b.rxen = false
end

