-- ==== Sys2Proof/Laws/State.lean ====
section
/-! SUPPORT. One lemma per field per named update of Machine/Ops.lean: what the update leaves in that field. -/

namespace Sys2Proof.Machine

variable (s : State)

@[simp] theorem setFlags_params (v : StatusA) : (setFlags v s).params = s.params := rfl
@[simp] theorem setFlags_a (v : StatusA) : (setFlags v s).a = v := rfl
@[simp] theorem setFlags_b (v : StatusA) : (setFlags v s).b = s.b := rfl
@[simp] theorem setFlags_c (v : StatusA) : (setFlags v s).c = s.c := rfl
@[simp] theorem setFlags_ubrrh (v : StatusA) : (setFlags v s).ubrrh = s.ubrrh := rfl
@[simp] theorem setFlags_ubrrl (v : StatusA) : (setFlags v s).ubrrl = s.ubrrl := rfl
@[simp] theorem setFlags_txbuf (v : StatusA) : (setFlags v s).txbuf = s.txbuf := rfl
@[simp] theorem setFlags_txshift (v : StatusA) : (setFlags v s).txshift = s.txshift := rfl
@[simp] theorem setFlags_rxbuf (v : StatusA) : (setFlags v s).rxbuf = s.rxbuf := rfl
@[simp] theorem setFlags_ctl (v : StatusA) : (setFlags v s).ctl = s.ctl := rfl
@[simp] theorem setFlags_txline (v : StatusA) : (setFlags v s).txline = s.txline := rfl
@[simp] theorem setFlags_faults (v : StatusA) : (setFlags v s).faults = s.faults := rfl
@[simp] theorem setFlags_refused (v : StatusA) : (setFlags v s).refused = s.refused := rfl
@[simp] theorem setFlags_mem (v : StatusA) : (setFlags v s).mem = s.mem := rfl
@[simp] theorem setFlags_schedule (v : StatusA) : (setFlags v s).schedule = s.schedule := rfl
@[simp] theorem setFlags_turn (v : StatusA) : (setFlags v s).turn = s.turn := rfl
@[simp] theorem setFlags_returned (v : StatusA) : (setFlags v s).returned = s.returned := rfl
@[simp] theorem setFlags_draws (v : StatusA) : (setFlags v s).draws = s.draws := rfl

@[simp] theorem setEnables_params (v : ControlB) : (setEnables v s).params = s.params := rfl
@[simp] theorem setEnables_a (v : ControlB) : (setEnables v s).a = s.a := rfl
@[simp] theorem setEnables_b (v : ControlB) : (setEnables v s).b = v := rfl
@[simp] theorem setEnables_c (v : ControlB) : (setEnables v s).c = s.c := rfl
@[simp] theorem setEnables_ubrrh (v : ControlB) : (setEnables v s).ubrrh = s.ubrrh := rfl
@[simp] theorem setEnables_ubrrl (v : ControlB) : (setEnables v s).ubrrl = s.ubrrl := rfl
@[simp] theorem setEnables_txbuf (v : ControlB) : (setEnables v s).txbuf = s.txbuf := rfl
@[simp] theorem setEnables_txshift (v : ControlB) : (setEnables v s).txshift = s.txshift := rfl
@[simp] theorem setEnables_rxbuf (v : ControlB) : (setEnables v s).rxbuf = s.rxbuf := rfl
@[simp] theorem setEnables_ctl (v : ControlB) : (setEnables v s).ctl = s.ctl := rfl
@[simp] theorem setEnables_txline (v : ControlB) : (setEnables v s).txline = s.txline := rfl
@[simp] theorem setEnables_faults (v : ControlB) : (setEnables v s).faults = s.faults := rfl
@[simp] theorem setEnables_refused (v : ControlB) : (setEnables v s).refused = s.refused := rfl
@[simp] theorem setEnables_mem (v : ControlB) : (setEnables v s).mem = s.mem := rfl
@[simp] theorem setEnables_schedule (v : ControlB) : (setEnables v s).schedule = s.schedule := rfl
@[simp] theorem setEnables_turn (v : ControlB) : (setEnables v s).turn = s.turn := rfl
@[simp] theorem setEnables_returned (v : ControlB) : (setEnables v s).returned = s.returned := rfl
@[simp] theorem setEnables_draws (v : ControlB) : (setEnables v s).draws = s.draws := rfl

@[simp] theorem setFormat_params (v : Format) : (setFormat v s).params = s.params := rfl
@[simp] theorem setFormat_a (v : Format) : (setFormat v s).a = s.a := rfl
@[simp] theorem setFormat_b (v : Format) : (setFormat v s).b = s.b := rfl
@[simp] theorem setFormat_c (v : Format) : (setFormat v s).c = v := rfl
@[simp] theorem setFormat_ubrrh (v : Format) : (setFormat v s).ubrrh = s.ubrrh := rfl
@[simp] theorem setFormat_ubrrl (v : Format) : (setFormat v s).ubrrl = s.ubrrl := rfl
@[simp] theorem setFormat_txbuf (v : Format) : (setFormat v s).txbuf = s.txbuf := rfl
@[simp] theorem setFormat_txshift (v : Format) : (setFormat v s).txshift = s.txshift := rfl
@[simp] theorem setFormat_rxbuf (v : Format) : (setFormat v s).rxbuf = s.rxbuf := rfl
@[simp] theorem setFormat_ctl (v : Format) : (setFormat v s).ctl = s.ctl := rfl
@[simp] theorem setFormat_txline (v : Format) : (setFormat v s).txline = s.txline := rfl
@[simp] theorem setFormat_faults (v : Format) : (setFormat v s).faults = s.faults := rfl
@[simp] theorem setFormat_refused (v : Format) : (setFormat v s).refused = s.refused := rfl
@[simp] theorem setFormat_mem (v : Format) : (setFormat v s).mem = s.mem := rfl
@[simp] theorem setFormat_schedule (v : Format) : (setFormat v s).schedule = s.schedule := rfl
@[simp] theorem setFormat_turn (v : Format) : (setFormat v s).turn = s.turn := rfl
@[simp] theorem setFormat_returned (v : Format) : (setFormat v s).returned = s.returned := rfl
@[simp] theorem setFormat_draws (v : Format) : (setFormat v s).draws = s.draws := rfl

@[simp] theorem setBaudHigh_params (v : Byte) : (setBaudHigh v s).params = s.params := rfl
@[simp] theorem setBaudHigh_a (v : Byte) : (setBaudHigh v s).a = s.a := rfl
@[simp] theorem setBaudHigh_b (v : Byte) : (setBaudHigh v s).b = s.b := rfl
@[simp] theorem setBaudHigh_c (v : Byte) : (setBaudHigh v s).c = s.c := rfl
@[simp] theorem setBaudHigh_ubrrh (v : Byte) : (setBaudHigh v s).ubrrh = v := rfl
@[simp] theorem setBaudHigh_ubrrl (v : Byte) : (setBaudHigh v s).ubrrl = s.ubrrl := rfl
@[simp] theorem setBaudHigh_txbuf (v : Byte) : (setBaudHigh v s).txbuf = s.txbuf := rfl
@[simp] theorem setBaudHigh_txshift (v : Byte) : (setBaudHigh v s).txshift = s.txshift := rfl
@[simp] theorem setBaudHigh_rxbuf (v : Byte) : (setBaudHigh v s).rxbuf = s.rxbuf := rfl
@[simp] theorem setBaudHigh_ctl (v : Byte) : (setBaudHigh v s).ctl = s.ctl := rfl
@[simp] theorem setBaudHigh_txline (v : Byte) : (setBaudHigh v s).txline = s.txline := rfl
@[simp] theorem setBaudHigh_faults (v : Byte) : (setBaudHigh v s).faults = s.faults := rfl
@[simp] theorem setBaudHigh_refused (v : Byte) : (setBaudHigh v s).refused = s.refused := rfl
@[simp] theorem setBaudHigh_mem (v : Byte) : (setBaudHigh v s).mem = s.mem := rfl
@[simp] theorem setBaudHigh_schedule (v : Byte) : (setBaudHigh v s).schedule = s.schedule := rfl
@[simp] theorem setBaudHigh_turn (v : Byte) : (setBaudHigh v s).turn = s.turn := rfl
@[simp] theorem setBaudHigh_returned (v : Byte) : (setBaudHigh v s).returned = s.returned := rfl
@[simp] theorem setBaudHigh_draws (v : Byte) : (setBaudHigh v s).draws = s.draws := rfl

@[simp] theorem setBaudLow_params (v : Byte) : (setBaudLow v s).params = s.params := rfl
@[simp] theorem setBaudLow_a (v : Byte) : (setBaudLow v s).a = s.a := rfl
@[simp] theorem setBaudLow_b (v : Byte) : (setBaudLow v s).b = s.b := rfl
@[simp] theorem setBaudLow_c (v : Byte) : (setBaudLow v s).c = s.c := rfl
@[simp] theorem setBaudLow_ubrrh (v : Byte) : (setBaudLow v s).ubrrh = s.ubrrh := rfl
@[simp] theorem setBaudLow_ubrrl (v : Byte) : (setBaudLow v s).ubrrl = v := rfl
@[simp] theorem setBaudLow_txbuf (v : Byte) : (setBaudLow v s).txbuf = s.txbuf := rfl
@[simp] theorem setBaudLow_txshift (v : Byte) : (setBaudLow v s).txshift = s.txshift := rfl
@[simp] theorem setBaudLow_rxbuf (v : Byte) : (setBaudLow v s).rxbuf = s.rxbuf := rfl
@[simp] theorem setBaudLow_ctl (v : Byte) : (setBaudLow v s).ctl = s.ctl := rfl
@[simp] theorem setBaudLow_txline (v : Byte) : (setBaudLow v s).txline = s.txline := rfl
@[simp] theorem setBaudLow_faults (v : Byte) : (setBaudLow v s).faults = s.faults := rfl
@[simp] theorem setBaudLow_refused (v : Byte) : (setBaudLow v s).refused = s.refused := rfl
@[simp] theorem setBaudLow_mem (v : Byte) : (setBaudLow v s).mem = s.mem := rfl
@[simp] theorem setBaudLow_schedule (v : Byte) : (setBaudLow v s).schedule = s.schedule := rfl
@[simp] theorem setBaudLow_turn (v : Byte) : (setBaudLow v s).turn = s.turn := rfl
@[simp] theorem setBaudLow_returned (v : Byte) : (setBaudLow v s).returned = s.returned := rfl
@[simp] theorem setBaudLow_draws (v : Byte) : (setBaudLow v s).draws = s.draws := rfl

@[simp] theorem setTxbuf_params (v : Option Byte) : (setTxbuf v s).params = s.params := rfl
@[simp] theorem setTxbuf_a (v : Option Byte) : (setTxbuf v s).a = s.a := rfl
@[simp] theorem setTxbuf_b (v : Option Byte) : (setTxbuf v s).b = s.b := rfl
@[simp] theorem setTxbuf_c (v : Option Byte) : (setTxbuf v s).c = s.c := rfl
@[simp] theorem setTxbuf_ubrrh (v : Option Byte) : (setTxbuf v s).ubrrh = s.ubrrh := rfl
@[simp] theorem setTxbuf_ubrrl (v : Option Byte) : (setTxbuf v s).ubrrl = s.ubrrl := rfl
@[simp] theorem setTxbuf_txbuf (v : Option Byte) : (setTxbuf v s).txbuf = v := rfl
@[simp] theorem setTxbuf_txshift (v : Option Byte) : (setTxbuf v s).txshift = s.txshift := rfl
@[simp] theorem setTxbuf_rxbuf (v : Option Byte) : (setTxbuf v s).rxbuf = s.rxbuf := rfl
@[simp] theorem setTxbuf_ctl (v : Option Byte) : (setTxbuf v s).ctl = s.ctl := rfl
@[simp] theorem setTxbuf_txline (v : Option Byte) : (setTxbuf v s).txline = s.txline := rfl
@[simp] theorem setTxbuf_faults (v : Option Byte) : (setTxbuf v s).faults = s.faults := rfl
@[simp] theorem setTxbuf_refused (v : Option Byte) : (setTxbuf v s).refused = s.refused := rfl
@[simp] theorem setTxbuf_mem (v : Option Byte) : (setTxbuf v s).mem = s.mem := rfl
@[simp] theorem setTxbuf_schedule (v : Option Byte) : (setTxbuf v s).schedule = s.schedule := rfl
@[simp] theorem setTxbuf_turn (v : Option Byte) : (setTxbuf v s).turn = s.turn := rfl
@[simp] theorem setTxbuf_returned (v : Option Byte) : (setTxbuf v s).returned = s.returned := rfl
@[simp] theorem setTxbuf_draws (v : Option Byte) : (setTxbuf v s).draws = s.draws := rfl

@[simp] theorem setTxshift_params (v : Option TxEvent) : (setTxshift v s).params = s.params := rfl
@[simp] theorem setTxshift_a (v : Option TxEvent) : (setTxshift v s).a = s.a := rfl
@[simp] theorem setTxshift_b (v : Option TxEvent) : (setTxshift v s).b = s.b := rfl
@[simp] theorem setTxshift_c (v : Option TxEvent) : (setTxshift v s).c = s.c := rfl
@[simp] theorem setTxshift_ubrrh (v : Option TxEvent) : (setTxshift v s).ubrrh = s.ubrrh := rfl
@[simp] theorem setTxshift_ubrrl (v : Option TxEvent) : (setTxshift v s).ubrrl = s.ubrrl := rfl
@[simp] theorem setTxshift_txbuf (v : Option TxEvent) : (setTxshift v s).txbuf = s.txbuf := rfl
@[simp] theorem setTxshift_txshift (v : Option TxEvent) : (setTxshift v s).txshift = v := rfl
@[simp] theorem setTxshift_rxbuf (v : Option TxEvent) : (setTxshift v s).rxbuf = s.rxbuf := rfl
@[simp] theorem setTxshift_ctl (v : Option TxEvent) : (setTxshift v s).ctl = s.ctl := rfl
@[simp] theorem setTxshift_txline (v : Option TxEvent) : (setTxshift v s).txline = s.txline := rfl
@[simp] theorem setTxshift_faults (v : Option TxEvent) : (setTxshift v s).faults = s.faults := rfl
@[simp] theorem setTxshift_refused (v : Option TxEvent) : (setTxshift v s).refused = s.refused := rfl
@[simp] theorem setTxshift_mem (v : Option TxEvent) : (setTxshift v s).mem = s.mem := rfl
@[simp] theorem setTxshift_schedule (v : Option TxEvent) : (setTxshift v s).schedule = s.schedule := rfl
@[simp] theorem setTxshift_turn (v : Option TxEvent) : (setTxshift v s).turn = s.turn := rfl
@[simp] theorem setTxshift_returned (v : Option TxEvent) : (setTxshift v s).returned = s.returned := rfl
@[simp] theorem setTxshift_draws (v : Option TxEvent) : (setTxshift v s).draws = s.draws := rfl

@[simp] theorem setRxbuf_params (v : Option Byte) : (setRxbuf v s).params = s.params := rfl
@[simp] theorem setRxbuf_a (v : Option Byte) : (setRxbuf v s).a = s.a := rfl
@[simp] theorem setRxbuf_b (v : Option Byte) : (setRxbuf v s).b = s.b := rfl
@[simp] theorem setRxbuf_c (v : Option Byte) : (setRxbuf v s).c = s.c := rfl
@[simp] theorem setRxbuf_ubrrh (v : Option Byte) : (setRxbuf v s).ubrrh = s.ubrrh := rfl
@[simp] theorem setRxbuf_ubrrl (v : Option Byte) : (setRxbuf v s).ubrrl = s.ubrrl := rfl
@[simp] theorem setRxbuf_txbuf (v : Option Byte) : (setRxbuf v s).txbuf = s.txbuf := rfl
@[simp] theorem setRxbuf_txshift (v : Option Byte) : (setRxbuf v s).txshift = s.txshift := rfl
@[simp] theorem setRxbuf_rxbuf (v : Option Byte) : (setRxbuf v s).rxbuf = v := rfl
@[simp] theorem setRxbuf_ctl (v : Option Byte) : (setRxbuf v s).ctl = s.ctl := rfl
@[simp] theorem setRxbuf_txline (v : Option Byte) : (setRxbuf v s).txline = s.txline := rfl
@[simp] theorem setRxbuf_faults (v : Option Byte) : (setRxbuf v s).faults = s.faults := rfl
@[simp] theorem setRxbuf_refused (v : Option Byte) : (setRxbuf v s).refused = s.refused := rfl
@[simp] theorem setRxbuf_mem (v : Option Byte) : (setRxbuf v s).mem = s.mem := rfl
@[simp] theorem setRxbuf_schedule (v : Option Byte) : (setRxbuf v s).schedule = s.schedule := rfl
@[simp] theorem setRxbuf_turn (v : Option Byte) : (setRxbuf v s).turn = s.turn := rfl
@[simp] theorem setRxbuf_returned (v : Option Byte) : (setRxbuf v s).returned = s.returned := rfl
@[simp] theorem setRxbuf_draws (v : Option Byte) : (setRxbuf v s).draws = s.draws := rfl

@[simp] theorem setCtl_params (v : Controller) : (setCtl v s).params = s.params := rfl
@[simp] theorem setCtl_a (v : Controller) : (setCtl v s).a = s.a := rfl
@[simp] theorem setCtl_b (v : Controller) : (setCtl v s).b = s.b := rfl
@[simp] theorem setCtl_c (v : Controller) : (setCtl v s).c = s.c := rfl
@[simp] theorem setCtl_ubrrh (v : Controller) : (setCtl v s).ubrrh = s.ubrrh := rfl
@[simp] theorem setCtl_ubrrl (v : Controller) : (setCtl v s).ubrrl = s.ubrrl := rfl
@[simp] theorem setCtl_txbuf (v : Controller) : (setCtl v s).txbuf = s.txbuf := rfl
@[simp] theorem setCtl_txshift (v : Controller) : (setCtl v s).txshift = s.txshift := rfl
@[simp] theorem setCtl_rxbuf (v : Controller) : (setCtl v s).rxbuf = s.rxbuf := rfl
@[simp] theorem setCtl_ctl (v : Controller) : (setCtl v s).ctl = v := rfl
@[simp] theorem setCtl_txline (v : Controller) : (setCtl v s).txline = s.txline := rfl
@[simp] theorem setCtl_faults (v : Controller) : (setCtl v s).faults = s.faults := rfl
@[simp] theorem setCtl_refused (v : Controller) : (setCtl v s).refused = s.refused := rfl
@[simp] theorem setCtl_mem (v : Controller) : (setCtl v s).mem = s.mem := rfl
@[simp] theorem setCtl_schedule (v : Controller) : (setCtl v s).schedule = s.schedule := rfl
@[simp] theorem setCtl_turn (v : Controller) : (setCtl v s).turn = s.turn := rfl
@[simp] theorem setCtl_returned (v : Controller) : (setCtl v s).returned = s.returned := rfl
@[simp] theorem setCtl_draws (v : Controller) : (setCtl v s).draws = s.draws := rfl

@[simp] theorem goto_params (v : CtlState) : (goto v s).params = s.params := rfl
@[simp] theorem goto_a (v : CtlState) : (goto v s).a = s.a := rfl
@[simp] theorem goto_b (v : CtlState) : (goto v s).b = s.b := rfl
@[simp] theorem goto_c (v : CtlState) : (goto v s).c = s.c := rfl
@[simp] theorem goto_ubrrh (v : CtlState) : (goto v s).ubrrh = s.ubrrh := rfl
@[simp] theorem goto_ubrrl (v : CtlState) : (goto v s).ubrrl = s.ubrrl := rfl
@[simp] theorem goto_txbuf (v : CtlState) : (goto v s).txbuf = s.txbuf := rfl
@[simp] theorem goto_txshift (v : CtlState) : (goto v s).txshift = s.txshift := rfl
@[simp] theorem goto_rxbuf (v : CtlState) : (goto v s).rxbuf = s.rxbuf := rfl
@[simp] theorem goto_ctl (v : CtlState) : (goto v s).ctl = { s.ctl with state := v } := rfl
@[simp] theorem goto_txline (v : CtlState) : (goto v s).txline = s.txline := rfl
@[simp] theorem goto_faults (v : CtlState) : (goto v s).faults = s.faults := rfl
@[simp] theorem goto_refused (v : CtlState) : (goto v s).refused = s.refused := rfl
@[simp] theorem goto_mem (v : CtlState) : (goto v s).mem = s.mem := rfl
@[simp] theorem goto_schedule (v : CtlState) : (goto v s).schedule = s.schedule := rfl
@[simp] theorem goto_turn (v : CtlState) : (goto v s).turn = s.turn := rfl
@[simp] theorem goto_returned (v : CtlState) : (goto v s).returned = s.returned := rfl
@[simp] theorem goto_draws (v : CtlState) : (goto v s).draws = s.draws := rfl

@[simp] theorem emit_params (v : TxEvent) : (emit v s).params = s.params := rfl
@[simp] theorem emit_a (v : TxEvent) : (emit v s).a = s.a := rfl
@[simp] theorem emit_b (v : TxEvent) : (emit v s).b = s.b := rfl
@[simp] theorem emit_c (v : TxEvent) : (emit v s).c = s.c := rfl
@[simp] theorem emit_ubrrh (v : TxEvent) : (emit v s).ubrrh = s.ubrrh := rfl
@[simp] theorem emit_ubrrl (v : TxEvent) : (emit v s).ubrrl = s.ubrrl := rfl
@[simp] theorem emit_txbuf (v : TxEvent) : (emit v s).txbuf = s.txbuf := rfl
@[simp] theorem emit_txshift (v : TxEvent) : (emit v s).txshift = s.txshift := rfl
@[simp] theorem emit_rxbuf (v : TxEvent) : (emit v s).rxbuf = s.rxbuf := rfl
@[simp] theorem emit_ctl (v : TxEvent) : (emit v s).ctl = s.ctl := rfl
@[simp] theorem emit_txline (v : TxEvent) : (emit v s).txline = s.txline ++ [v] := rfl
@[simp] theorem emit_faults (v : TxEvent) : (emit v s).faults = s.faults := rfl
@[simp] theorem emit_refused (v : TxEvent) : (emit v s).refused = s.refused := rfl
@[simp] theorem emit_mem (v : TxEvent) : (emit v s).mem = s.mem := rfl
@[simp] theorem emit_schedule (v : TxEvent) : (emit v s).schedule = s.schedule := rfl
@[simp] theorem emit_turn (v : TxEvent) : (emit v s).turn = s.turn := rfl
@[simp] theorem emit_returned (v : TxEvent) : (emit v s).returned = s.returned := rfl
@[simp] theorem emit_draws (v : TxEvent) : (emit v s).draws = s.draws := rfl

@[simp] theorem setMem_params (v : Memory) : (setMem v s).params = s.params := rfl
@[simp] theorem setMem_a (v : Memory) : (setMem v s).a = s.a := rfl
@[simp] theorem setMem_b (v : Memory) : (setMem v s).b = s.b := rfl
@[simp] theorem setMem_c (v : Memory) : (setMem v s).c = s.c := rfl
@[simp] theorem setMem_ubrrh (v : Memory) : (setMem v s).ubrrh = s.ubrrh := rfl
@[simp] theorem setMem_ubrrl (v : Memory) : (setMem v s).ubrrl = s.ubrrl := rfl
@[simp] theorem setMem_txbuf (v : Memory) : (setMem v s).txbuf = s.txbuf := rfl
@[simp] theorem setMem_txshift (v : Memory) : (setMem v s).txshift = s.txshift := rfl
@[simp] theorem setMem_rxbuf (v : Memory) : (setMem v s).rxbuf = s.rxbuf := rfl
@[simp] theorem setMem_ctl (v : Memory) : (setMem v s).ctl = s.ctl := rfl
@[simp] theorem setMem_txline (v : Memory) : (setMem v s).txline = s.txline := rfl
@[simp] theorem setMem_faults (v : Memory) : (setMem v s).faults = s.faults := rfl
@[simp] theorem setMem_refused (v : Memory) : (setMem v s).refused = s.refused := rfl
@[simp] theorem setMem_mem (v : Memory) : (setMem v s).mem = v := rfl
@[simp] theorem setMem_schedule (v : Memory) : (setMem v s).schedule = s.schedule := rfl
@[simp] theorem setMem_turn (v : Memory) : (setMem v s).turn = s.turn := rfl
@[simp] theorem setMem_returned (v : Memory) : (setMem v s).returned = s.returned := rfl
@[simp] theorem setMem_draws (v : Memory) : (setMem v s).draws = s.draws := rfl

@[simp] theorem setSchedule_params (v : List Move) : (setSchedule v s).params = s.params := rfl
@[simp] theorem setSchedule_a (v : List Move) : (setSchedule v s).a = s.a := rfl
@[simp] theorem setSchedule_b (v : List Move) : (setSchedule v s).b = s.b := rfl
@[simp] theorem setSchedule_c (v : List Move) : (setSchedule v s).c = s.c := rfl
@[simp] theorem setSchedule_ubrrh (v : List Move) : (setSchedule v s).ubrrh = s.ubrrh := rfl
@[simp] theorem setSchedule_ubrrl (v : List Move) : (setSchedule v s).ubrrl = s.ubrrl := rfl
@[simp] theorem setSchedule_txbuf (v : List Move) : (setSchedule v s).txbuf = s.txbuf := rfl
@[simp] theorem setSchedule_txshift (v : List Move) : (setSchedule v s).txshift = s.txshift := rfl
@[simp] theorem setSchedule_rxbuf (v : List Move) : (setSchedule v s).rxbuf = s.rxbuf := rfl
@[simp] theorem setSchedule_ctl (v : List Move) : (setSchedule v s).ctl = s.ctl := rfl
@[simp] theorem setSchedule_txline (v : List Move) : (setSchedule v s).txline = s.txline := rfl
@[simp] theorem setSchedule_faults (v : List Move) : (setSchedule v s).faults = s.faults := rfl
@[simp] theorem setSchedule_refused (v : List Move) : (setSchedule v s).refused = s.refused := rfl
@[simp] theorem setSchedule_mem (v : List Move) : (setSchedule v s).mem = s.mem := rfl
@[simp] theorem setSchedule_schedule (v : List Move) : (setSchedule v s).schedule = v := rfl
@[simp] theorem setSchedule_turn (v : List Move) : (setSchedule v s).turn = s.turn := rfl
@[simp] theorem setSchedule_returned (v : List Move) : (setSchedule v s).returned = s.returned := rfl
@[simp] theorem setSchedule_draws (v : List Move) : (setSchedule v s).draws = s.draws := rfl

@[simp] theorem setTurn_params (v : Agent) : (setTurn v s).params = s.params := rfl
@[simp] theorem setTurn_a (v : Agent) : (setTurn v s).a = s.a := rfl
@[simp] theorem setTurn_b (v : Agent) : (setTurn v s).b = s.b := rfl
@[simp] theorem setTurn_c (v : Agent) : (setTurn v s).c = s.c := rfl
@[simp] theorem setTurn_ubrrh (v : Agent) : (setTurn v s).ubrrh = s.ubrrh := rfl
@[simp] theorem setTurn_ubrrl (v : Agent) : (setTurn v s).ubrrl = s.ubrrl := rfl
@[simp] theorem setTurn_txbuf (v : Agent) : (setTurn v s).txbuf = s.txbuf := rfl
@[simp] theorem setTurn_txshift (v : Agent) : (setTurn v s).txshift = s.txshift := rfl
@[simp] theorem setTurn_rxbuf (v : Agent) : (setTurn v s).rxbuf = s.rxbuf := rfl
@[simp] theorem setTurn_ctl (v : Agent) : (setTurn v s).ctl = s.ctl := rfl
@[simp] theorem setTurn_txline (v : Agent) : (setTurn v s).txline = s.txline := rfl
@[simp] theorem setTurn_faults (v : Agent) : (setTurn v s).faults = s.faults := rfl
@[simp] theorem setTurn_refused (v : Agent) : (setTurn v s).refused = s.refused := rfl
@[simp] theorem setTurn_mem (v : Agent) : (setTurn v s).mem = s.mem := rfl
@[simp] theorem setTurn_schedule (v : Agent) : (setTurn v s).schedule = s.schedule := rfl
@[simp] theorem setTurn_turn (v : Agent) : (setTurn v s).turn = v := rfl
@[simp] theorem setTurn_returned (v : Agent) : (setTurn v s).returned = s.returned := rfl
@[simp] theorem setTurn_draws (v : Agent) : (setTurn v s).draws = s.draws := rfl

@[simp] theorem giveHost_params (v : HostValue) : (giveHost v s).params = s.params := rfl
@[simp] theorem giveHost_a (v : HostValue) : (giveHost v s).a = s.a := rfl
@[simp] theorem giveHost_b (v : HostValue) : (giveHost v s).b = s.b := rfl
@[simp] theorem giveHost_c (v : HostValue) : (giveHost v s).c = s.c := rfl
@[simp] theorem giveHost_ubrrh (v : HostValue) : (giveHost v s).ubrrh = s.ubrrh := rfl
@[simp] theorem giveHost_ubrrl (v : HostValue) : (giveHost v s).ubrrl = s.ubrrl := rfl
@[simp] theorem giveHost_txbuf (v : HostValue) : (giveHost v s).txbuf = s.txbuf := rfl
@[simp] theorem giveHost_txshift (v : HostValue) : (giveHost v s).txshift = s.txshift := rfl
@[simp] theorem giveHost_rxbuf (v : HostValue) : (giveHost v s).rxbuf = s.rxbuf := rfl
@[simp] theorem giveHost_ctl (v : HostValue) : (giveHost v s).ctl = s.ctl := rfl
@[simp] theorem giveHost_txline (v : HostValue) : (giveHost v s).txline = s.txline := rfl
@[simp] theorem giveHost_faults (v : HostValue) : (giveHost v s).faults = s.faults := rfl
@[simp] theorem giveHost_refused (v : HostValue) : (giveHost v s).refused = s.refused := rfl
@[simp] theorem giveHost_mem (v : HostValue) : (giveHost v s).mem = s.mem := rfl
@[simp] theorem giveHost_schedule (v : HostValue) : (giveHost v s).schedule = s.schedule := rfl
@[simp] theorem giveHost_turn (v : HostValue) : (giveHost v s).turn = s.turn := rfl
@[simp] theorem giveHost_returned (v : HostValue) : (giveHost v s).returned = s.returned ++ [v] := rfl
@[simp] theorem giveHost_draws (v : HostValue) : (giveHost v s).draws = s.draws := rfl

@[simp] theorem draw_params : (draw s).2.params = s.params := rfl
@[simp] theorem draw_a : (draw s).2.a = s.a := rfl
@[simp] theorem draw_b : (draw s).2.b = s.b := rfl
@[simp] theorem draw_c : (draw s).2.c = s.c := rfl
@[simp] theorem draw_ubrrh : (draw s).2.ubrrh = s.ubrrh := rfl
@[simp] theorem draw_ubrrl : (draw s).2.ubrrl = s.ubrrl := rfl
@[simp] theorem draw_txbuf : (draw s).2.txbuf = s.txbuf := rfl
@[simp] theorem draw_txshift : (draw s).2.txshift = s.txshift := rfl
@[simp] theorem draw_rxbuf : (draw s).2.rxbuf = s.rxbuf := rfl
@[simp] theorem draw_ctl : (draw s).2.ctl = s.ctl := rfl
@[simp] theorem draw_txline : (draw s).2.txline = s.txline := rfl
@[simp] theorem draw_faults : (draw s).2.faults = s.faults := rfl
@[simp] theorem draw_refused : (draw s).2.refused = s.refused := rfl
@[simp] theorem draw_mem : (draw s).2.mem = s.mem := rfl
@[simp] theorem draw_schedule : (draw s).2.schedule = s.schedule := rfl
@[simp] theorem draw_turn : (draw s).2.turn = s.turn := rfl
@[simp] theorem draw_returned : (draw s).2.returned = s.returned := rfl
@[simp] theorem draw_draws : (draw s).2.draws = s.draws + 1 := rfl

@[simp] theorem raise_params (v : FaultCode) : (raise v s).params = s.params := rfl
@[simp] theorem raise_a (v : FaultCode) : (raise v s).a = s.a := rfl
@[simp] theorem raise_b (v : FaultCode) : (raise v s).b = s.b := rfl
@[simp] theorem raise_c (v : FaultCode) : (raise v s).c = s.c := rfl
@[simp] theorem raise_ubrrh (v : FaultCode) : (raise v s).ubrrh = s.ubrrh := rfl
@[simp] theorem raise_ubrrl (v : FaultCode) : (raise v s).ubrrl = s.ubrrl := rfl
@[simp] theorem raise_txbuf (v : FaultCode) : (raise v s).txbuf = s.txbuf := rfl
@[simp] theorem raise_txshift (v : FaultCode) : (raise v s).txshift = s.txshift := rfl
@[simp] theorem raise_rxbuf (v : FaultCode) : (raise v s).rxbuf = s.rxbuf := rfl
@[simp] theorem raise_ctl (v : FaultCode) : (raise v s).ctl = s.ctl := rfl
@[simp] theorem raise_txline (v : FaultCode) : (raise v s).txline = s.txline := rfl
@[simp] theorem raise_faults (v : FaultCode) : (raise v s).faults = insertFault v s.faults := rfl
@[simp] theorem raise_refused (v : FaultCode) : (raise v s).refused = s.refused := rfl
@[simp] theorem raise_mem (v : FaultCode) : (raise v s).mem = s.mem := rfl
@[simp] theorem raise_schedule (v : FaultCode) : (raise v s).schedule = s.schedule := rfl
@[simp] theorem raise_turn (v : FaultCode) : (raise v s).turn = s.turn := rfl
@[simp] theorem raise_returned (v : FaultCode) : (raise v s).returned = s.returned := rfl
@[simp] theorem raise_draws (v : FaultCode) : (raise v s).draws = s.draws := rfl

@[simp] theorem refuse_params (v : RefusalCode) : (refuse v s).params = s.params := rfl
@[simp] theorem refuse_a (v : RefusalCode) : (refuse v s).a = s.a := rfl
@[simp] theorem refuse_b (v : RefusalCode) : (refuse v s).b = s.b := rfl
@[simp] theorem refuse_c (v : RefusalCode) : (refuse v s).c = s.c := rfl
@[simp] theorem refuse_ubrrh (v : RefusalCode) : (refuse v s).ubrrh = s.ubrrh := rfl
@[simp] theorem refuse_ubrrl (v : RefusalCode) : (refuse v s).ubrrl = s.ubrrl := rfl
@[simp] theorem refuse_txbuf (v : RefusalCode) : (refuse v s).txbuf = s.txbuf := rfl
@[simp] theorem refuse_txshift (v : RefusalCode) : (refuse v s).txshift = s.txshift := rfl
@[simp] theorem refuse_rxbuf (v : RefusalCode) : (refuse v s).rxbuf = s.rxbuf := rfl
@[simp] theorem refuse_ctl (v : RefusalCode) : (refuse v s).ctl = s.ctl := rfl
@[simp] theorem refuse_txline (v : RefusalCode) : (refuse v s).txline = s.txline := rfl
@[simp] theorem refuse_faults (v : RefusalCode) : (refuse v s).faults = s.faults := rfl
@[simp] theorem refuse_refused (v : RefusalCode) : (refuse v s).refused = s.refused.or (some v) := rfl
@[simp] theorem refuse_mem (v : RefusalCode) : (refuse v s).mem = s.mem := rfl
@[simp] theorem refuse_schedule (v : RefusalCode) : (refuse v s).schedule = s.schedule := rfl
@[simp] theorem refuse_turn (v : RefusalCode) : (refuse v s).turn = s.turn := rfl
@[simp] theorem refuse_returned (v : RefusalCode) : (refuse v s).returned = s.returned := rfl
@[simp] theorem refuse_draws (v : RefusalCode) : (refuse v s).draws = s.draws := rfl

@[simp] theorem draw_value : (draw s).1 = Config.draw s.draws := rfl

@[simp] theorem resetBlock_params : (resetBlock s).params = s.params := rfl
@[simp] theorem resetBlock_a : (resetBlock s).a = StatusA.reset := rfl
@[simp] theorem resetBlock_b : (resetBlock s).b = ControlB.reset := rfl
@[simp] theorem resetBlock_c : (resetBlock s).c = s.params.resetUcsrc := rfl
@[simp] theorem resetBlock_ubrrh : (resetBlock s).ubrrh = highByte s.params.resetUbrr := rfl
@[simp] theorem resetBlock_ubrrl : (resetBlock s).ubrrl = lowByte s.params.resetUbrr := rfl
@[simp] theorem resetBlock_txbuf : (resetBlock s).txbuf = none := rfl
@[simp] theorem resetBlock_txshift : (resetBlock s).txshift = none := rfl
@[simp] theorem resetBlock_rxbuf : (resetBlock s).rxbuf = none := rfl
@[simp] theorem resetBlock_ctl : (resetBlock s).ctl = Controller.reset := rfl
@[simp] theorem resetBlock_txline : (resetBlock s).txline = [] := rfl
@[simp] theorem resetBlock_faults : (resetBlock s).faults = [] := rfl
@[simp] theorem resetBlock_refused : (resetBlock s).refused = none := rfl
@[simp] theorem resetBlock_mem : (resetBlock s).mem = s.mem := rfl
@[simp] theorem resetBlock_schedule : (resetBlock s).schedule = s.schedule := rfl
@[simp] theorem resetBlock_turn : (resetBlock s).turn = Agent.controller := rfl
@[simp] theorem resetBlock_returned : (resetBlock s).returned = [] := rfl
@[simp] theorem resetBlock_draws : (resetBlock s).draws = s.draws := rfl

end Sys2Proof.Machine
end

