-- ==== Sys2Proof/Laws/Ops.lean ====
section
/-! SUPPORT. What each shared operation of Machine/Ops.lean can do: the memory laws, and one lemma for each way a
step begins (quiescence, ownership) or is cut short (a raise, a refusal). -/

namespace Sys2Proof.Machine

/-! Caller memory. -/

theorem memGet_below (m : Memory) (a : Nat) (h : ∀ p ∈ m, a < p.1) : memGet m a = unlistedByte := by
  induction m with
  | nil => rfl
  | cons cell rest ih =>
    have hc := h cell (by simp)
    have ht := ih fun p hp => h p (by simp [hp])
    simp [memGet, ht, Nat.ne_of_gt hc]

/-- A byte written reads back. -/
theorem memGet_memPut_same (m : Memory) (a : Nat) (b : Byte) (h : m.Pairwise fun p q => p.1 < q.1) :
    memGet (memPut m a b) a = b := by
  induction m with
  | nil => by_cases hb : b = unlistedByte <;> simp [memPut, memGet, hb]
  | cons cell rest ih =>
    obtain ⟨hall, hrest⟩ := List.pairwise_cons.mp h
    rcases Nat.lt_trichotomy cell.1 a with hlt | heq | hgt
    · simp [memPut, memGet, hlt, Nat.ne_of_lt hlt, ih hrest]
    · subst heq
      by_cases hb : b = unlistedByte
      · simpa [memPut, hb] using memGet_below rest cell.1 hall
      · simp [memPut, memGet, hb]
    · by_cases hb : b = unlistedByte
      · have hbelow : memGet (cell :: rest) a = unlistedByte :=
          memGet_below _ _ fun p hp => by
            rcases List.mem_cons.mp hp with rfl | hp
            · exact hgt
            · exact Nat.lt_trans hgt (hall p hp)
        simpa [memPut, hb, Nat.not_lt.mpr hgt.le, Nat.ne_of_gt hgt] using hbelow
      · simp [memPut, memGet, hb, Nat.not_lt.mpr hgt.le, Nat.ne_of_gt hgt]

/-- A write leaves every other byte alone. -/
theorem memGet_memPut_other (m : Memory) (a c : Nat) (b : Byte) (hc : c ≠ a) :
    memGet (memPut m a b) c = memGet m c := by
  induction m with
  | nil => by_cases hb : b = unlistedByte <;> simp [memPut, memGet, hb, hc.symm]
  | cons cell rest ih =>
    by_cases hlt : cell.1 < a
    · simp [memPut, memGet, hlt, ih]
    · by_cases heq : cell.1 = a
      · by_cases hb : b = unlistedByte <;> simp [memPut, memGet, heq, hb, hc.symm]
      · by_cases hb : b = unlistedByte <;> simp [memPut, memGet, hlt, heq, hb, hc.symm]

theorem mem_memPut {m : Memory} {a : Nat} {b : Byte} {p : Host.Cell} (h : p ∈ memPut m a b) :
    p ∈ m ∨ (p = (a, b) ∧ b ≠ unlistedByte) := by
  induction m with
  | nil =>
    by_cases hb : b = unlistedByte
    · simp [memPut, hb] at h
    · simp_all [memPut]
  | cons cell rest ih =>
    simp only [memPut] at h
    split_ifs at h with h1 h2 hb hb
    · rcases List.mem_cons.mp h with rfl | h
      · simp
      · rcases ih h with h | h
        · simp [h]
        · exact .inr h
    · simp [h]
    · rcases List.mem_cons.mp h with rfl | h
      · exact .inr ⟨rfl, hb⟩
      · simp [h]
    · exact .inl h
    · rcases List.mem_cons.mp h with rfl | h
      · exact .inr ⟨rfl, hb⟩
      · exact .inl h

theorem memPut_sorted (m : Memory) (a : Nat) (b : Byte) (h : m.Pairwise fun p q => p.1 < q.1) :
    (memPut m a b).Pairwise fun p q => p.1 < q.1 := by
  induction m with
  | nil => by_cases hb : b = unlistedByte <;> simp [memPut, hb]
  | cons cell rest ih =>
    obtain ⟨hall, hrest⟩ := List.pairwise_cons.mp h
    simp only [memPut]
    split_ifs with h1 h2 hb hb
    · refine List.pairwise_cons.mpr ⟨fun p hp => ?_, ih hrest⟩
      rcases mem_memPut hp with hp | ⟨rfl, _⟩
      · exact hall p hp
      · exact h1
    · exact hrest
    · exact List.pairwise_cons.mpr ⟨fun p hp => h2 ▸ hall p hp, hrest⟩
    · exact h
    · refine List.pairwise_cons.mpr ⟨fun p hp => ?_, h⟩
      have hac : a < cell.1 := by omega
      rcases List.mem_cons.mp hp with rfl | hp
      · exact hac
      · exact Nat.lt_trans hac (hall p hp)

/-- A write keeps the canonical form. -/
theorem memPut_wf (m : Memory) (a : Addr) (b : Byte) (h : Memory.wf m) : Memory.wf (memPut m a.toNat b) := by
  refine ⟨memPut_sorted m a.toNat b h.1, fun p hp => ?_⟩
  rcases mem_memPut hp with hp | ⟨rfl, hb⟩
  · exact h.2 p hp
  · exact ⟨a.isLt, hb⟩

theorem memory_nil_wf : Memory.wf [] := ⟨List.Pairwise.nil, by simp⟩

theorem reset_memory_wf : Memory.wf State.reset.mem := memory_nil_wf

/-! Faults. -/

@[simp] theorem insertFault_nil (f : FaultCode) : insertFault f [] = [f] := rfl

theorem mem_insertFault (f g : FaultCode) (l : List FaultCode) : g ∈ insertFault f l ↔ g = f ∨ g ∈ l := by
  induction l with
  | nil => simp
  | cons h rest ih =>
    simp only [insertFault]
    split_ifs with h1 h2
    · simp
    · subst h2; simp
    · simp only [List.mem_cons, ih]; tauto

/-- A raised fault is recorded. -/
theorem insertFault_ne_nil (f : FaultCode) (l : List FaultCode) : insertFault f l ≠ [] := fun h => by
  have := (mem_insertFault f f l).mpr (.inl rfl)
  simp [h] at this

/-! How a step begins. -/

theorem live_iff (s : State) : live s = true ↔ s.Live := by
  simp [live, List.isEmpty_iff]

theorem busy_iff (s : State) : busy s = true ↔ s.ctl.state ≠ .idle := by
  simp [busy]

theorem whenLive_live {s : State} (h : s.Live) (k : State → State) : whenLive s k = .next (k s) := by
  simp [whenLive, h.1, h.2]

/-- A step that answers a next state began in a live state. -/
theorem whenLive_next {s t : State} {k : State → State} : whenLive s k = .next t ↔ s.Live ∧ t = k s := by
  rcases hf : s.faults with _ | ⟨f, fs⟩
  · rcases hr : s.refused with _ | r
    · simp [whenLive, hf, hr, State.Live, eq_comm]
    · simp [whenLive, hf, hr, State.Live]
  · simp [whenLive, hf, State.Live]

theorem whenLive_faulted {s : State} (h : s.faults ≠ []) (k : State → State) :
    whenLive s k = .fault (.faulted s.faults) := by
  rcases hf : s.faults with _ | ⟨f, fs⟩
  · exact absurd hf h
  · simp [whenLive, hf]

theorem whenLive_refused {s : State} {r : RefusalCode} (hf : s.faults = []) (h : s.refused = some r)
    (k : State → State) : whenLive s k = .refused (.formRefused r) := by
  simp [whenLive, hf, h]

theorem hostTransaction_ready {s : State} (h : s.HostReady) (k : State → State) :
    hostTransaction s k = .next (k s) := by
  simp [hostTransaction, whenLive_live h.1, busy, h.2]

theorem hostTransaction_busy {s : State} (h : s.Live) (hb : s.ctl.state ≠ .idle) (k : State → State) :
    hostTransaction s k = .next (raise .busContention s) := by
  simp [hostTransaction, whenLive_live h, busy, hb]

/-- What a host register transaction can do, when it answers a next state. -/
theorem hostTransaction_next {s t : State} {k : State → State} (h : hostTransaction s k = .next t) :
    s.Live ∧ ((s.ctl.state = .idle ∧ t = k s) ∨ (s.ctl.state ≠ .idle ∧ t = raise .busContention s)) := by
  obtain ⟨hl, ht⟩ := whenLive_next.mp h
  refine ⟨hl, ?_⟩
  by_cases hb : s.ctl.state = .idle
  · exact .inl ⟨hb, by simpa [busy, hb] using ht⟩
  · exact .inr ⟨hb, by simpa [busy, hb] using ht⟩

theorem hostCommand_ready {s : State} (h : s.HostReady) (k : State → State) :
    hostCommand s k = .next (k s) := by
  simp [hostCommand, whenLive_live h.1, busy, h.2]

theorem hostCommand_busy {s : State} (h : s.Live) (hb : s.ctl.state ≠ .idle) (k : State → State) :
    hostCommand s k = .next (raise .cmdBusy s) := by
  simp [hostCommand, whenLive_live h, busy, hb]

/-- What a host command can do, when it answers a next state. -/
theorem hostCommand_next {s t : State} {k : State → State} (h : hostCommand s k = .next t) :
    s.Live ∧ ((s.ctl.state = .idle ∧ t = k s) ∨ (s.ctl.state ≠ .idle ∧ t = raise .cmdBusy s)) := by
  obtain ⟨hl, ht⟩ := whenLive_next.mp h
  refine ⟨hl, ?_⟩
  by_cases hb : s.ctl.state = .idle
  · exact .inl ⟨hb, by simpa [busy, hb] using ht⟩
  · exact .inr ⟨hb, by simpa [busy, hb] using ht⟩

/-! How a step is cut short. -/

theorem andThen_live {s : State} (h : s.Live) (k : State → State) : andThen s k = k s := by
  simp [andThen, (live_iff s).mpr h]

theorem andThen_fields {x : State} {k : State → State} (hf : x.faults = []) (hr : x.refused = none) :
    andThen x k = k x := andThen_live ⟨hf, hr⟩ k

theorem andThen_stop {s : State} (h : ¬ s.Live) (k : State → State) : andThen s k = s := by
  have : live s = false := by simpa using fun hl => h ((live_iff s).mp hl)
  simp [andThen, this]

theorem raise_not_live (f : FaultCode) (s : State) : ¬ (raise f s).Live := fun h => insertFault_ne_nil _ _ h.1

theorem refuse_not_live (r : RefusalCode) (s : State) : ¬ (refuse r s).Live := fun h => by
  have := h.2
  cases hs : s.refused <;> simp [hs] at this

@[simp] theorem andThen_raise (f : FaultCode) (s : State) (k : State → State) :
    andThen (raise f s) k = raise f s := andThen_stop (raise_not_live f s) k

@[simp] theorem andThen_refuse (r : RefusalCode) (s : State) (k : State → State) :
    andThen (refuse r s) k = refuse r s := andThen_stop (refuse_not_live r s) k

/-- What is left of a step after `x`: either `x` was live and the rest ran, or `x` stands. -/
theorem andThen_cases (x : State) (k : State → State) :
    (x.Live ∧ andThen x k = k x) ∨ (¬ x.Live ∧ andThen x k = x) := by
  by_cases h : x.Live
  · exact .inl ⟨h, andThen_live h k⟩
  · exact .inr ⟨h, andThen_stop h k⟩

end Sys2Proof.Machine
end

