-- ==== Sys2Proof/Laws/Port.lean ====
section
/-! SUPPORT. One lemma per register-port operation, controller step and engine step: everything it can do. -/

namespace Sys2Proof.Machine

variable {s : State}

theorem portRdData_full {v : Byte} (h : s.rxbuf = some v) :
    portRdData s = (v, setFlags (clearErrors s.a) (setRxbuf none s)) := by simp [portRdData, h]

theorem portRdData_empty (h : s.rxbuf = none) :
    portRdData s = (Config.draw s.draws, raise .rxEmptyRead (draw s).2) := by simp [portRdData, h]

/-- What WR_DATA can do (R75). -/
theorem portWrData_cases (d : Byte) (s : State) :
    (s.b.txen = false ∧ portWrData d s = raise .txDisabled s) ∨
    (s.b.txen = true ∧ s.txbuf ≠ none ∧ portWrData d s = raise .txOverwrite s) ∨
    (s.b.txen = true ∧ s.txbuf = none ∧ portWrData d s = setTxbuf (some d) s) := by
  cases ht : s.b.txen <;> cases hb : s.txbuf <;> simp [portWrData, ht, hb]

/-- What WR_CONTROL_B can do (R79). -/
theorem portWrControlB_cases (d : Byte) (s : State) :
    (∃ r, controlBRefusal d s.b = some r ∧ portWrControlB d s = refuse r s) ∨
    (controlBRefusal d s.b = none ∧ portWrControlB d s = setEnables (storeEnables d s.b) s) := by
  cases h : controlBRefusal d s.b <;> simp [portWrControlB, h]

/-- What WR_BAUD_HIGH can do (R81). -/
theorem portWrBaudHigh_cases (hi : BitVec 7) (s : State) :
    (insideMask s.params (zextHigh hi) = true ∧ portWrBaudHigh hi s = setBaudHigh (zextHigh hi) s) ∨
    (insideMask s.params (zextHigh hi) = false ∧ portWrBaudHigh hi s = refuse .baudHighReservedBits s) := by
  cases h : insideMask s.params (zextHigh hi) <;> simp [portWrBaudHigh, h]

/-- The enable write of INIT is never refused (R108). -/
theorem controlBRefusal_enable (b : ControlB) : controlBRefusal 0x18 b = none := by
  simp [controlBRefusal]

theorem whenAdmitted_cases (s : State) (k : State → State) :
    (admitted s = true ∧ whenAdmitted s k = k s) ∨
    (admitted s = false ∧ whenAdmitted s k = refuse .frameNotAdmitted s) := by
  cases h : admitted s <;> simp [whenAdmitted, h]

theorem admitted_iff (s : State) : admitted s = true ↔ s.c = frame8n1 ∧ s.b.ucsz2 = false := by
  simp [admitted]

/-- Everything the transmitter's step can do (R90 to R92). -/
theorem transmitterStep_cases (s : State) :
    (∃ e, s.txshift = some e ∧ admitted s = true ∧
      transmitterStep s = completeTx (setTxshift none (emit e s))) ∨
    (∃ d, s.txshift = none ∧ s.b.txen = true ∧ s.txbuf = some d ∧ admitted s = true ∧
      transmitterStep s = setTxbuf none (setTxshift (some ⟨d, ubrr s, s.c⟩) s)) ∨
    (admitted s = false ∧ transmitterStep s = refuse .frameNotAdmitted s) ∨
    (s.txshift = none ∧ (s.b.txen = false ∨ s.txbuf = none) ∧ transmitterStep s = s) := by
  cases hx : s.txshift <;> cases hb : s.txbuf <;> cases ht : s.b.txen <;> cases ha : admitted s <;>
    simp [transmitterStep, txDoneEnabled, txLoadEnabled, txDone, txLoad, whenAdmitted, hx, hb, ht, ha]

/-- Everything an offered frame can do (R94). -/
theorem receiverStep_cases (b : Byte) (fe : Bool) (s : State) :
    (s.b.rxen = false ∧ receiverStep b fe s = s) ∨
    (s.b.rxen = true ∧ admitted s = false ∧ receiverStep b fe s = refuse .frameNotAdmitted s) ∨
    (s.b.rxen = true ∧ admitted s = true ∧ s.rxbuf = none ∧
      receiverStep b fe s = setFlags (frameErrors fe s.a) (setRxbuf (some b) s)) ∨
    (∃ v, s.b.rxen = true ∧ admitted s = true ∧ s.rxbuf = some v ∧
      receiverStep b fe s = raise .rxOverrun (setFlags { s.a with dor := true } s)) := by
  cases hr : s.b.rxen <;> cases ha : admitted s <;> cases hb : s.rxbuf <;>
    simp [receiverStep, whenAdmitted, hr, ha, hb]

/-- Each bit of a byte made of its bits. -/
theorem byteOfBits_bits : ∀ b7 b6 b5 b4 b3 b2 b1 b0 : Bool,
    (byteOfBits b7 b6 b5 b4 b3 b2 b1 b0).getLsbD 7 = b7 ∧ (byteOfBits b7 b6 b5 b4 b3 b2 b1 b0).getLsbD 6 = b6 ∧
    (byteOfBits b7 b6 b5 b4 b3 b2 b1 b0).getLsbD 5 = b5 ∧ (byteOfBits b7 b6 b5 b4 b3 b2 b1 b0).getLsbD 4 = b4 ∧
    (byteOfBits b7 b6 b5 b4 b3 b2 b1 b0).getLsbD 3 = b3 ∧ (byteOfBits b7 b6 b5 b4 b3 b2 b1 b0).getLsbD 2 = b2 ∧
    (byteOfBits b7 b6 b5 b4 b3 b2 b1 b0).getLsbD 1 = b1 ∧ (byteOfBits b7 b6 b5 b4 b3 b2 b1 b0).getLsbD 0 = b0 := by
  decide

/-- The bit TX_POLL and SS_POLL look at is UDRE (R111, R118). -/
@[simp] theorem udreBit_statusA (s : State) : udreBit (statusAByte s) = udre s :=
  (byteOfBits_bits _ _ _ _ _ _ _ _).2.2.1

/-- The bit RX_POLL looks at is RXC (R114). -/
@[simp] theorem rxcBit_statusA (s : State) : rxcBit (statusAByte s) = rxc s :=
  (byteOfBits_bits _ _ _ _ _ _ _ _).1

/-- A poll moves the controller and nothing else (R111, R114, R118). -/
theorem stepPoll_eq (flag : Byte → Bool) (ready again : CtlState) (s : State) :
    stepPoll flag ready again s = goto (if flag (statusAByte s) then ready else again) s := rfl

end Sys2Proof.Machine
end

