-- ==== Sys2Proof/Laws/Controller.lean ====
section
/-! SUPPORT. One lemma per controller step that is cut short or not (R105 to R119): what it leaves, from a live state. -/

namespace Sys2Proof.Machine

variable {s : State}

/-- A byte whose bits lie inside a valid mask has its selector clear, and is its own payload: it reaches BAUD_HIGH
(R30, R106, R147). -/
theorem inside_valid_mask {p : Params} (hp : p.Valid) {d : Byte} (h : insideMask p d = true) :
    selector d = false ∧ zextHigh (payload d) = d := by
  obtain ⟨_, _, hm, _⟩ := hp
  have key : ∀ m ∈ [0x00#8, 0x01#8, 0x03#8, 0x07#8, 0x0F#8, 0x1F#8, 0x3F#8, 0x7F#8],
      ∀ x : Byte, x &&& ~~~m = 0 → selector x = false ∧ zextHigh (payload x) = x := by decide
  exact key _ hm d (by simpa [insideMask] using h)

/-- A loadable high byte is stored in BAUD_HIGH (R106). -/
theorem portWrShared_high (hp : s.params.Valid) {d : Byte} (h : insideMask s.params d = true) :
    portWrShared d s = setBaudHigh d s := by
  obtain ⟨hs, hz⟩ := inside_valid_mask hp h
  simp [portWrShared, hs, portWrBaudHigh, hz, h]

/-- The byte 0x86 at the shared location stores 8-N-1 in CONTROL_C (R109). -/
theorem portWrShared_format (s : State) : portWrShared 0x86 s = setFormat 0x06 s := rfl

theorem portWrControlB_enable (s : State) : portWrControlB 0x18 s = setEnables (storeEnables 0x18 s.b) s := by
  simp only [portWrControlB, controlBRefusal_enable]

theorem stepInitWh_eq (hl : s.Live) (hp : s.params.Valid) (h : insideMask s.params (highByte s.ctl.div) = true) :
    stepInitWh s = goto .initWl (setBaudHigh (highByte s.ctl.div) s) := by
  simp [stepInitWh, portWrShared_high hp h, andThen_fields, hl.1, hl.2]

/-- What INIT_WH can do for any divisor (R106, R147): store CONTROL_C, store BAUD_HIGH, or be refused. -/
theorem stepInitWh_cases (hl : s.Live) :
    stepInitWh s = goto .initWl (setFormat (payload (highByte s.ctl.div)) s) ∨
    stepInitWh s = goto .initWl (setBaudHigh (zextHigh (payload (highByte s.ctl.div))) s) ∨
    stepInitWh s = refuse .baudHighReservedBits s := by
  unfold stepInitWh portWrShared
  split
  · exact .inl (andThen_fields (x := setFormat (payload (highByte s.ctl.div)) s) hl.1 hl.2)
  · obtain ⟨_, e⟩ | ⟨_, e⟩ := portWrBaudHigh_cases (payload (highByte s.ctl.div)) s <;> rw [e]
    · exact .inr (.inl
        (andThen_fields (x := setBaudHigh (zextHigh (payload (highByte s.ctl.div))) s) hl.1 hl.2))
    · exact .inr (.inr (andThen_refuse _ _ _))

theorem stepInitWl_eq (hl : s.Live) : stepInitWl s = goto .initWb (setBaudLow (lowByte s.ctl.div) s) := by
  simp [stepInitWl, portWrBaudLow, andThen_fields, hl.1, hl.2]

theorem stepInitWb_eq (hl : s.Live) : stepInitWb s = goto .initWc (setEnables (storeEnables 0x18 s.b) s) := by
  rw [stepInitWb, portWrControlB_enable, andThen_fields] <;> simp [hl.1, hl.2]

theorem stepInitWc_eq (hl : s.Live) : stepInitWc s = goto .idle (setFormat 0x06 s) := by
  rw [stepInitWc, portWrShared_format, andThen_fields] <;> simp [hl.1, hl.2]

/-- What TX_ACT can do (R112). -/
theorem stepTxAct_cases (hl : s.Live) :
    (s.b.txen = false ∧ stepTxAct s = raise .txDisabled s) ∨
    (s.b.txen = true ∧ s.txbuf ≠ none ∧ stepTxAct s = raise .txOverwrite s) ∨
    (s.b.txen = true ∧ s.txbuf = none ∧ stepTxAct s = goto .idle (setTxbuf (some s.ctl.byte) s)) := by
  obtain ⟨ht, e⟩ | ⟨ht, hb, e⟩ | ⟨ht, hb, e⟩ := portWrData_cases s.ctl.byte s
  · exact .inl ⟨ht, by rw [stepTxAct, e, andThen_raise]⟩
  · exact .inr (.inl ⟨ht, hb, by rw [stepTxAct, e, andThen_raise]⟩)
  · exact .inr (.inr ⟨ht, hb, by simp [stepTxAct, e, andThen_fields, hl.1, hl.2]⟩)

/-- What RX_ACT can do (R115). -/
theorem stepRxAct_cases (hl : s.Live) :
    (s.rxbuf = none ∧ stepRxAct s = raise .rxEmptyRead (draw s).2) ∨
    (∃ v, s.rxbuf = some v ∧ stepRxAct s =
      setCtl { s.ctl with result := some v, state := .idle } (setFlags (clearErrors s.a) (setRxbuf none s))) := by
  cases hb : s.rxbuf with
  | none => exact .inl ⟨rfl, by rw [stepRxAct, portRdData_empty hb, andThen_raise]⟩
  | some v =>
    refine .inr ⟨v, rfl, ?_⟩
    simp [stepRxAct, portRdData_full hb, andThen_fields, hl.1, hl.2]

/-- What SS_ACT can do (R119). -/
theorem stepSsAct_cases (hl : s.Live) :
    (s.b.txen = false ∧ stepSsAct s = raise .txDisabled s) ∨
    (s.b.txen = true ∧ s.txbuf ≠ none ∧ stepSsAct s = raise .txOverwrite s) ∨
    (s.b.txen = true ∧ s.txbuf = none ∧ s.ctl.addr = 0xFFFF ∧
      stepSsAct s = raise .stringWrap (setTxbuf (some s.ctl.byte) s)) ∨
    (s.b.txen = true ∧ s.txbuf = none ∧ s.ctl.addr ≠ 0xFFFF ∧ stepSsAct s =
      setCtl { s.ctl with addr := s.ctl.addr + 1, state := .ssFetch } (setTxbuf (some s.ctl.byte) s)) := by
  obtain ⟨ht, e⟩ | ⟨ht, hb, e⟩ | ⟨ht, hb, e⟩ := portWrData_cases s.ctl.byte s
  · exact .inl ⟨ht, by rw [stepSsAct, e, andThen_raise]⟩
  · exact .inr (.inl ⟨ht, hb, by rw [stepSsAct, e, andThen_raise]⟩)
  · by_cases ha : s.ctl.addr = 0xFFFF
    · exact .inr (.inr (.inl ⟨ht, hb, ha, by simp [stepSsAct, e, andThen_fields, hl.1, hl.2, ha]⟩))
    · exact .inr (.inr (.inr ⟨ht, hb, ha, by simp [stepSsAct, e, andThen_fields, hl.1, hl.2]; exact if_neg ha⟩))

end Sys2Proof.Machine
end

