-- ==== Sys2Proof/Laws/Decode.lean ====
section
/-! SUPPORT. The fields of the two formats: what each field of a word made by the encoder is, and that a word is made
of its fields. -/

namespace Sys2Proof

/-- Each bit of a BUS16 word, by field (R60). -/
theorem busWord_bit (wr : Bool) (r : RegIndex) (d : Byte) (i : Nat) : (busWord wr r d).getLsbD i =
    if i < 8 then d.getLsbD i else if i - 8 < 3 then r.bits.getLsbD (i - 8)
    else if i - 8 - 3 < 4 then false else (BitVec.ofBool wr).getLsbD (i - 8 - 3 - 4) := by
  have h : (busWord wr r d).getLsbD i =
      BitVec.getLsbD (w := 1 + 4 + 3 + 8) (BitVec.ofBool wr ++ 0#4 ++ r.bits ++ d) i := rfl
  rw [h, BitVec.getLsbD_append, BitVec.getLsbD_append, BitVec.getLsbD_append]
  simp

/-- Each bit of a CMD32 word, by field (R62). -/
theorem cmdWord_bit (op : Byte) (imm : BitVec 24) (i : Nat) : (cmdWord op imm).getLsbD i =
    if i < 24 then imm.getLsbD i else op.getLsbD (i - 24) := by
  have h : (cmdWord op imm).getLsbD i = BitVec.getLsbD (w := 8 + 24) (op ++ imm) i := rfl
  rw [h, BitVec.getLsbD_append]

theorem busWord_data (wr : Bool) (r : RegIndex) (d : Byte) : (busWord wr r d).extractLsb' 0 8 = d := by
  apply BitVec.eq_of_getLsbD_eq
  intro i hi
  simp [busWord_bit, hi]

theorem busWord_reg (wr : Bool) (r : RegIndex) (d : Byte) : (busWord wr r d).extractLsb' 8 3 = r.bits := by
  apply BitVec.eq_of_getLsbD_eq
  intro i hi
  simp [busWord_bit, hi]

theorem busWord_reserved (wr : Bool) (r : RegIndex) (d : Byte) : (busWord wr r d).extractLsb' 11 4 = 0 := by
  apply BitVec.eq_of_getLsbD_eq
  intro i hi
  have h1 : ¬ (11 + i < 8) := by omega
  have h2 : ¬ (11 + i - 8 < 3) := by omega
  have h3 : 11 + i - 8 - 3 < 4 := by omega
  simp [busWord_bit, h1, h2, h3]

theorem busWord_write (wr : Bool) (r : RegIndex) (d : Byte) : (busWord wr r d).getLsbD 15 = wr := by
  rw [busWord_bit]
  simp

theorem cmdWord_op (op : Byte) (imm : BitVec 24) : (cmdWord op imm).extractLsb' 24 8 = op := by
  apply BitVec.eq_of_getLsbD_eq
  intro i hi
  simp [cmdWord_bit, hi]

theorem cmdWord_imm (op : Byte) (imm : BitVec 24) (a n : Nat) (h : a + n ≤ 24) :
    (cmdWord op imm).extractLsb' a n = imm.extractLsb' a n := by
  apply BitVec.eq_of_getLsbD_eq
  intro i hi
  have : a + i < 24 := by omega
  simp [cmdWord_bit, hi, this]

@[simp] theorem ofBits_bits (r : RegIndex) : RegIndex.ofBits r.bits = some r := by cases r <;> rfl

/-- A REG field that names a location is that location's (R14). -/
theorem ofBits_eq_some {b : BitVec 3} {r : RegIndex} : RegIndex.ofBits b = some r ↔ b = r.bits := by
  revert b
  cases r <;> decide

theorem ofBits_eq_none {b : BitVec 3} : RegIndex.ofBits b = none ↔ 5 ≤ b.toNat := by
  revert b
  decide

theorem decodeBus_read (r : RegIndex) : decodeBus (busWord false r 0) = .ok (readInstr r) := by
  simp only [decodeBus, busWord_reserved, busWord_reg, ofBits_bits, busWord_write, busWord_data]
  simp

theorem decodeBus_write (r : RegIndex) (d : Byte) : decodeBus (busWord true r d) = .ok (writeInstr r d) := by
  simp only [decodeBus, busWord_reserved, busWord_reg, ofBits_bits, busWord_write, busWord_data]
  simp

/-- The selector routes a byte written at the shared location (R14). -/
theorem writeInstr_shared_high : ∀ hi : BitVec 7, writeInstr .shared (0#1 ++ hi) = .wrBaudHigh hi := by decide

theorem writeInstr_shared_format : ∀ c : BitVec 7, writeInstr .shared (1#1 ++ c) = .wrControlC c := by decide

/-- A byte is its selector over its payload. -/
theorem byte_of_selector : ∀ d : Byte, BitVec.ofBool (d.getLsbD 7) ++ d.extractLsb' 0 7 = d := by decide

/-- A BUS16 word with Z zero is made of its fields (R60). -/
theorem busWord_fields (w : BusWord) (r : RegIndex) (hz : w.extractLsb' 11 4 = 0)
    (hr : w.extractLsb' 8 3 = r.bits) : busWord (w.getLsbD 15) r (w.extractLsb' 0 8) = w := by
  apply BitVec.eq_of_getLsbD_eq
  intro i hi
  rw [busWord_bit]
  split_ifs with h1 h2 h3
  · simp [h1]
  · have := congrArg (fun b => b.getLsbD (i - 8)) hr
    simp only [BitVec.getLsbD_extractLsb', h2, decide_true, Bool.true_and] at this
    rw [← this]
    congr 1
    omega
  · have := congrArg (fun b => b.getLsbD (i - 8 - 3)) hz
    simp only [BitVec.getLsbD_extractLsb', h3, decide_true, Bool.true_and] at this
    rw [show 11 + (i - 8 - 3) = i by omega] at this
    rw [this]
    simp
  · obtain rfl : i = 15 := by omega
    simp

/-- A CMD32 word is made of its fields (R62). -/
theorem cmdWord_fields (w : CmdWord) : cmdWord (w.extractLsb' 24 8) (w.extractLsb' 0 24) = w := by
  apply BitVec.eq_of_getLsbD_eq
  intro i hi
  rw [cmdWord_bit]
  split_ifs with h1
  · simp [h1]
  · have h2 : i - 24 < 8 := by omega
    simp only [BitVec.getLsbD_extractLsb', h2, decide_true, Bool.true_and]
    congr 1
    omega

/-- The two shapes of a BUS16 word that decodes (R61). -/
theorem decodeBus_ok {w : BusWord} {i : Instr} (h : decodeBus w = .ok i) :
    ∃ r d, (w = busWord true r d ∧ i = writeInstr r d) ∨ (w = busWord false r 0 ∧ i = readInstr r) := by
  unfold decodeBus at h
  by_cases hz : w.extractLsb' 11 4 = 0
  · cases hr : RegIndex.ofBits (w.extractLsb' 8 3) with
    | none => simp [hz, hr] at h
    | some r =>
      have hf := busWord_fields w r hz (ofBits_eq_some.mp hr)
      simp only [hz, hr, ne_eq, not_true_eq_false, if_false] at h
      cases hw : w.getLsbD 15 <;> simp only [hw, if_true, Bool.false_eq_true, if_false] at h hf
      · split_ifs at h with h2
        cases h
        rw [h2] at hf
        exact ⟨r, 0, .inr ⟨hf.symm, rfl⟩⟩
      · cases h
        exact ⟨r, _, .inl ⟨hf.symm, rfl⟩⟩
  · rw [if_pos hz] at h
    cases h

theorem encode_readInstr (r : RegIndex) : encode (readInstr r) = .bus (busWord false r 0) := by cases r <;> rfl

theorem encode_writeInstr (r : RegIndex) (d : Byte) : encode (writeInstr r d) = .bus (busWord true r d) := by
  cases r <;> try rfl
  have h := byte_of_selector d
  unfold writeInstr
  cases hs : d.getLsbD 7 <;> rw [hs] at h
  · exact congrArg (fun x => PortWord.bus (busWord true .shared x)) h
  · exact congrArg (fun x => PortWord.bus (busWord true .shared x)) h

/-- The command an accepted CMD32 word spells uses its own opcode (R63). -/
theorem decodeCmd_ok {w : CmdWord} {i : Instr} (h : decodeCmd w = .ok i) :
    (∃ b, i = .init b) ∨ (∃ b, i = .tx b) ∨ i = .rx ∨ ∃ a, i = .sendstr a := by
  unfold decodeCmd at h
  split_ifs at h <;> cases h <;> simp

/-- An operand narrower than the IMM field, with zeros above it (R64). -/
theorem zext_operand_low {n m : Nat} (x : BitVec m) : (0#n ++ x).extractLsb' 0 m = x := by
  apply BitVec.eq_of_getLsbD_eq
  intro i hi
  simp [BitVec.getLsbD_append, hi]

theorem zext_operand_high {n m : Nat} (x : BitVec m) : (0#n ++ x).extractLsb' m n = 0 := by
  apply BitVec.eq_of_getLsbD_eq
  intro i hi
  simp [BitVec.getLsbD_append]

end Sys2Proof
end

