-- ==== Sys2Proof/Laws/Moves.lean ====
section
/-! SUPPORT. The inversion of a step: everything an instruction, a move or a step can do when it answers a next state.
Invariants are proved from these lemmas and never by unfolding `exec` or `perform`. -/

namespace Sys2Proof.Machine

/-- What an instruction does to a state in which the host owns the port. -/
def effect (i : Instr) (s : State) : State :=
  match i with
  | .rdData => giveHost (.read (portRdData s).1) (portRdData s).2
  | .rdStatusA => giveHost (.read (statusAByte s)) s
  | .rdControlB => giveHost (.read (controlBByte s.b)) s
  | .rdShared => giveHost (.read (draw s).1) (draw s).2
  | .rdBaudLow => giveHost (.read s.ubrrl) s
  | .wrData d => portWrData d s
  | .wrStatusA d => portWrStatusA d s
  | .wrControlB d => portWrControlB d s
  | .wrBaudHigh hi => portWrBaudHigh hi s
  | .wrControlC c => portWrControlC c s
  | .wrBaudLow d => portWrBaudLow d s
  | .init baud => acceptInit baud s
  | .tx byte => acceptTx byte s
  | .rx => acceptRx s
  | .sendstr addr => acceptSendstr addr s

/-- The fault of a host word that arrives while the controller is busy (R88, R102). -/
def contention : PortWord → FaultCode
  | .bus _ => .busContention
  | .cmd _ => .cmdBusy


/-- An instruction is its effect, behind the checks of quiescence and ownership (R131). -/
theorem exec_eq (i : Instr) (s : State) :
    exec i s = whenLive s fun s => if busy s then raise (contention (encode i)) s else effect i s := by
  cases i <;> rfl

theorem exec_ready {s : State} (h : s.HostReady) (i : Instr) : exec i s = .next (effect i s) := by
  simp [exec_eq, whenLive_live h.1, busy, h.2]

/-- What an instruction can do, when it answers a next state. -/
theorem exec_next {i : Instr} {s t : State} (h : exec i s = .next t) :
    s.Live ∧ ((s.ctl.state = .idle ∧ t = effect i s) ∨
      (s.ctl.state ≠ .idle ∧ t = raise (contention (encode i)) s)) := by
  obtain ⟨hl, ht⟩ := whenLive_next.mp (exec_eq i s ▸ h)
  refine ⟨hl, ?_⟩
  by_cases hb : s.ctl.state = .idle
  · exact .inl ⟨hb, by simpa [busy, hb] using ht⟩
  · exact .inr ⟨hb, by simpa [busy, hb] using ht⟩

/-- What a host word can do, when it answers a next state. -/
theorem offerWord_next {w : PortWord} {s t : State} (h : offerWord w s = .next t) :
    s.Live ∧ ((s.ctl.state = .idle ∧ ∃ i, decode w = .ok i ∧ t = effect i s) ∨
      (s.ctl.state = .idle ∧ ∃ r, decode w = .error r ∧ t = refuse r s) ∨
      (s.ctl.state ≠ .idle ∧ ∃ f, t = raise f s)) := by
  unfold offerWord at h
  split at h
  · rename_i i hi
    obtain ⟨hl, ⟨hb, ht⟩ | ⟨hb, ht⟩⟩ := exec_next h
    · exact ⟨hl, .inl ⟨hb, i, hi, ht⟩⟩
    · exact ⟨hl, .inr (.inr ⟨hb, _, ht⟩)⟩
  · rename_i r hr
    cases w
    · obtain ⟨hl, ⟨hb, ht⟩ | ⟨hb, ht⟩⟩ := hostTransaction_next h
      · exact ⟨hl, .inr (.inl ⟨hb, r, hr, ht⟩)⟩
      · exact ⟨hl, .inr (.inr ⟨hb, _, ht⟩)⟩
    · obtain ⟨hl, ⟨hb, ht⟩ | ⟨hb, ht⟩⟩ := hostCommand_next h
      · exact ⟨hl, .inr (.inl ⟨hb, r, hr, ht⟩)⟩
      · exact ⟨hl, .inr (.inr ⟨hb, _, ht⟩)⟩

/-- The word a move offers to the host's ports, if it offers one: a word, or the access to a location of the block. -/
def wordOf (m : Move) (s : State) : Option PortWord :=
  match m with
  | .offer w => some w
  | .access address write => (locationAt s.params address).map fun r => accessWord r write
  | .readBusy | .readResult | .writeMem _ _ | .frame _ _ | .turn _ | .reset => none

/-- Everything a move can do, when it answers a next state. -/
inductive MoveResult (s : State) : Move → State → Prop
  | reset : MoveResult s .reset (resetBlock s)
  | instr (m : Move) (w : PortWord) (i : Instr) : s.HostReady → wordOf m s = some w → decode w = .ok i →
      MoveResult s m (effect i s)
  | reserved (m : Move) (w : PortWord) (r : RefusalCode) : s.HostReady → wordOf m s = some w →
      decode w = .error r → MoveResult s m (refuse r s)
  | contended (m : Move) (w : PortWord) (f : FaultCode) : s.Live → s.ctl.state ≠ .idle → wordOf m s = some w →
      MoveResult s m (raise f s)
  | elsewhere (n : Nat) (w : Option Byte) : s.Live → locationAt s.params n = none →
      MoveResult s (.access n w) s
  | readBusy : s.Live → MoveResult s .readBusy (readBusy s)
  | readResult : s.Live → MoveResult s .readResult (readResult s)
  | writeMem (a : Addr) (b : Byte) : s.Live → awaitsFetch s a = false →
      MoveResult s (.writeMem a b) (storeByte a b s)
  | frame (b : Byte) (fe : Bool) : s.Live → MoveResult s (.frame b fe) (receiverStep b fe s)
  | controller : s.Live → MoveResult s (.turn .controller) (controllerStep s)
  | transmitter : s.Live → MoveResult s (.turn .transmitter) (transmitterStep s)

theorem offer_result {m : Move} {w : PortWord} {s t : State} (hw : wordOf m s = some w)
    (h : offerWord w s = .next t) : MoveResult s m t := by
  obtain ⟨hl, ⟨hb, i, hi, rfl⟩ | ⟨hb, r, hr, rfl⟩ | ⟨hb, f, rfl⟩⟩ := offerWord_next h
  · exact .instr m w i ⟨hl, hb⟩ hw hi
  · exact .reserved m w r ⟨hl, hb⟩ hw hr
  · exact .contended m w f hl hb hw

theorem perform_next {m : Move} {s t : State} (h : perform m s = .next t) : MoveResult s m t := by
  cases m with
  | offer w => exact offer_result rfl h
  | access n w =>
    simp only [perform, platformAccess] at h
    split at h
    · rename_i r hr
      exact offer_result (by simp [wordOf, hr]) h
    · rename_i hr
      obtain ⟨hl, rfl⟩ := whenLive_next.mp h
      exact .elsewhere n w hl hr
  | readBusy => obtain ⟨hl, rfl⟩ := whenLive_next.mp h; exact .readBusy hl
  | readResult => obtain ⟨hl, rfl⟩ := whenLive_next.mp h; exact .readResult hl
  | writeMem a b =>
    simp only [perform, writeCallerMemory] at h
    split at h
    · simp at h
    · rename_i hc
      obtain ⟨hl, rfl⟩ := whenLive_next.mp h
      exact .writeMem a b hl (by simpa [(live_iff s).mpr hl] using hc)
  | frame b fe => obtain ⟨hl, rfl⟩ := whenLive_next.mp h; exact .frame b fe hl
  | turn g =>
    obtain ⟨hl, rfl⟩ := whenLive_next.mp h
    cases g
    · exact .controller hl
    · exact .transmitter hl
  | reset => simp only [perform, Host.Outcome.next.injEq] at h; exact h ▸ .reset

/-- Everything a step can do, when it answers a next state. -/
theorem step_next {s t : State} (h : step s = .next t) :
    (∃ m rest, s.schedule = m :: rest ∧ perform m (setSchedule rest s) = .next t) ∨
    (s.schedule = [] ∧ s.Live ∧ t = defaultTurn s) := by
  unfold step at h
  split at h
  · rename_i hs
    obtain ⟨hl, ht⟩ := whenLive_next.mp h
    exact .inr ⟨hs, hl, ht⟩
  · rename_i m rest hs
    exact .inl ⟨m, rest, hs, h⟩

end Sys2Proof.Machine
end

