-- ==== Sys2Proof/Laws/Frames.lean ====
section
/-! SUPPORT. The footprint of each agent's step and of a host instruction: the fields it may change. Everything else is
as before; the whole-machine rules follow from these. -/

namespace Sys2Proof.Machine

/-- What an instruction may change. -/
theorem effect_footprint (i : Instr) (s : State) :
    effect i s = { s with
      a := { s.a with fe := (effect i s).a.fe, dor := (effect i s).a.dor, pe := (effect i s).a.pe }
      b := { s.b with rxen := (effect i s).b.rxen, txen := (effect i s).b.txen, txb8 := (effect i s).b.txb8 }
      c := (effect i s).c, ubrrh := (effect i s).ubrrh, ubrrl := (effect i s).ubrrl
      txbuf := (effect i s).txbuf, rxbuf := (effect i s).rxbuf, ctl := (effect i s).ctl
      faults := (effect i s).faults, refused := (effect i s).refused
      returned := (effect i s).returned, draws := (effect i s).draws } := by
  cases i with
  | rdData => cases hr : s.rxbuf <;> simp only [effect, portRdData, hr] <;> rfl
  | wrData d =>
    obtain ⟨_, e⟩ | ⟨_, _, e⟩ | ⟨_, _, e⟩ := portWrData_cases d s <;> simp only [effect, e] <;> rfl
  | wrControlB d => obtain ⟨_, _, e⟩ | ⟨_, e⟩ := portWrControlB_cases d s <;> simp only [effect, e] <;> rfl
  | wrBaudHigh d => obtain ⟨_, e⟩ | ⟨_, e⟩ := portWrBaudHigh_cases d s <;> simp only [effect, e] <;> rfl
  | init baud => simp only [effect, acceptInit]; split <;> rfl
  | rdStatusA => rfl
  | rdControlB => rfl
  | rdShared => rfl
  | rdBaudLow => rfl
  | wrStatusA d => rfl
  | wrControlC c => rfl
  | wrBaudLow d => rfl
  | tx byte => rfl
  | rx => rfl
  | sendstr addr => rfl

/-- What the controller's step may change: never the parameters, the memory, the line, the shift stage, the schedule. -/
theorem controllerStep_footprint {s : State} (hl : s.Live) :
    controllerStep s = { s with
      a := { s.a with fe := (controllerStep s).a.fe, dor := (controllerStep s).a.dor, pe := (controllerStep s).a.pe }
      b := { s.b with rxen := (controllerStep s).b.rxen, txen := (controllerStep s).b.txen,
                      txb8 := (controllerStep s).b.txb8 }
      c := (controllerStep s).c, ubrrh := (controllerStep s).ubrrh, ubrrl := (controllerStep s).ubrrl
      txbuf := (controllerStep s).txbuf, rxbuf := (controllerStep s).rxbuf, ctl := (controllerStep s).ctl
      faults := (controllerStep s).faults, refused := (controllerStep s).refused
      draws := (controllerStep s).draws } := by
  unfold controllerStep
  split
  · rfl
  · obtain e | e | e := stepInitWh_cases hl <;> rw [e] <;> rfl
  · rw [stepInitWl_eq hl]; rfl
  · rw [stepInitWb_eq hl]; rfl
  · rw [stepInitWc_eq hl]; rfl
  · rfl
  · obtain ⟨_, e⟩ | ⟨_, _, e⟩ | ⟨_, _, e⟩ := stepTxAct_cases hl <;> rw [e] <;> rfl
  · rfl
  · obtain ⟨_, e⟩ | ⟨_, _, e⟩ := stepRxAct_cases hl <;> rw [e] <;> rfl
  · unfold stepSsFetch; split <;> rfl
  · rfl
  · obtain ⟨_, e⟩ | ⟨_, _, e⟩ | ⟨_, _, _, e⟩ | ⟨_, _, _, e⟩ := stepSsAct_cases hl <;> rw [e] <;> rfl

/-- What the transmitter's step may change. -/
theorem transmitterStep_footprint (s : State) :
    transmitterStep s = { s with
      a := { s.a with txc := (transmitterStep s).a.txc }
      txbuf := (transmitterStep s).txbuf, txshift := (transmitterStep s).txshift
      txline := (transmitterStep s).txline, refused := (transmitterStep s).refused } := by
  obtain ⟨e, _, _, h⟩ | ⟨d, _, _, _, _, h⟩ | ⟨_, h⟩ | ⟨_, _, h⟩ := transmitterStep_cases s <;> rw [h] <;> try rfl
  unfold completeTx
  split <;> rfl

/-- What an offered frame may change. -/
theorem receiverStep_footprint (b : Byte) (fe : Bool) (s : State) :
    receiverStep b fe s = { s with
      a := { s.a with fe := (receiverStep b fe s).a.fe, dor := (receiverStep b fe s).a.dor,
                      pe := (receiverStep b fe s).a.pe }
      rxbuf := (receiverStep b fe s).rxbuf, faults := (receiverStep b fe s).faults
      refused := (receiverStep b fe s).refused } := by
  obtain ⟨_, h⟩ | ⟨_, _, h⟩ | ⟨_, _, _, h⟩ | ⟨_, _, _, _, h⟩ := receiverStep_cases b fe s <;> rw [h] <;> rfl

/-- What the host's result read may change. -/
theorem readResult_footprint (s : State) :
    readResult s = { s with faults := (readResult s).faults, returned := (readResult s).returned,
                            draws := (readResult s).draws } := by
  unfold readResult
  split <;> rfl

end Sys2Proof.Machine
end

