-- ==== Sys2Proof/Laws/PerInstr.lean ====
section
/-! SUPPORT. For every instruction: its word lies in the row of spec/opcode_table.json that carries its mnemonic
(R60, R62, R65), whatever its operand. -/

namespace Sys2Proof.Laws.TableRow

/-- The word of `i` matches the opcode-table row named as `i` is. -/
def Statement (i : Instr) : Prop :=
  match encode i with
  | .bus w => ∃ row ∈ busRows, row.mnemonic = i.mnemonic ∧ w &&& row.mask = row.pattern
  | .cmd w => ∃ row ∈ cmdRows, row.mnemonic = i.mnemonic ∧ w &&& row.mask = row.pattern

theorem rdData : Statement .rdData := ⟨⟨"RD_DATA", 0x0000, 0xFFFF⟩, by decide, rfl, by decide⟩

theorem rdStatusA : Statement .rdStatusA := ⟨⟨"RD_STATUS_A", 0x0100, 0xFFFF⟩, by decide, rfl, by decide⟩

theorem rdControlB : Statement .rdControlB := ⟨⟨"RD_CONTROL_B", 0x0200, 0xFFFF⟩, by decide, rfl, by decide⟩

theorem rdShared : Statement .rdShared := ⟨⟨"RD_SHARED", 0x0300, 0xFFFF⟩, by decide, rfl, by decide⟩

theorem rdBaudLow : Statement .rdBaudLow := ⟨⟨"RD_BAUD_LOW", 0x0400, 0xFFFF⟩, by decide, rfl, by decide⟩

/-- Every write word keeps W, Z and REG, whatever the data byte. -/
theorem write_bits : ∀ (r : RegIndex) (d : Byte), busWord true r d &&& 0xFF00 = 0x8000 ||| (0#5 ++ r.bits ++ 0#8) := by
  intro r; cases r <;> decide

/-- At the shared location the word keeps SEL too. -/
theorem shared_bits :
    ∀ p : BitVec 7, busWord true .shared (0#1 ++ p) &&& 0xFF80 = 0x8300 ∧
      busWord true .shared (1#1 ++ p) &&& 0xFF80 = 0x8380 := by
  decide

theorem wrData (d : Byte) : Statement (.wrData d) :=
  ⟨⟨"WR_DATA", 0x8000, 0xFF00⟩, by decide, rfl, write_bits .data d⟩

theorem wrStatusA (d : Byte) : Statement (.wrStatusA d) :=
  ⟨⟨"WR_STATUS_A", 0x8100, 0xFF00⟩, by decide, rfl, write_bits .statusA d⟩

theorem wrControlB (d : Byte) : Statement (.wrControlB d) :=
  ⟨⟨"WR_CONTROL_B", 0x8200, 0xFF00⟩, by decide, rfl, write_bits .controlB d⟩

theorem wrBaudHigh (hi : BitVec 7) : Statement (.wrBaudHigh hi) :=
  ⟨⟨"WR_BAUD_HIGH", 0x8300, 0xFF80⟩, by decide, rfl, (shared_bits hi).1⟩

theorem wrControlC (c : Format) : Statement (.wrControlC c) :=
  ⟨⟨"WR_CONTROL_C", 0x8380, 0xFF80⟩, by decide, rfl, (shared_bits c).2⟩

theorem wrBaudLow (d : Byte) : Statement (.wrBaudLow d) :=
  ⟨⟨"WR_BAUD_LOW", 0x8400, 0xFF00⟩, by decide, rfl, write_bits .baudLow d⟩

theorem init (baud : Baud) : Statement (.init baud) := by
  refine ⟨⟨"INIT", 0x01000000, 0xFF000000⟩, by decide, rfl, ?_⟩
  show (0x01#8 ++ baud) &&& (0xFF#8 ++ 0#24) = 0x01#8 ++ 0#24
  rw [BitVec.and_append]; simp

theorem tx (byte : Byte) : Statement (.tx byte) :=
  ⟨⟨"TX", 0x02000000, 0xFFFFFF00⟩, by decide, rfl, by revert byte; decide⟩

theorem rx : Statement .rx := ⟨⟨"RX", 0x03000000, 0xFFFFFFFF⟩, by decide, rfl, by decide⟩

theorem sendstr (addr : Addr) : Statement (.sendstr addr) := by
  refine ⟨⟨"SENDSTR", 0x04000000, 0xFFFF0000⟩, by decide, rfl, ?_⟩
  show (0x04#8 ++ (0#8 ++ addr)) &&& (0xFF#8 ++ (0xFF#8 ++ 0#16)) = 0x04#8 ++ (0#8 ++ 0#16)
  rw [BitVec.and_append, BitVec.and_append]; simp

end Sys2Proof.Laws.TableRow
end

