-- ==== Sys2Proof/Laws/Runs.lean ====
section
/-! SUPPORT. Runs (R52, R154): no move reads the schedule or whose turn it is, so a run can be laid out as a schedule; and
what holds along a run. -/

namespace Sys2Proof.Machine

/-- The state with another schedule and another turn, the two fields that only `step` reads. -/
def place (l : List Move) (g : Agent) (s : State) : State := { s with schedule := l, turn := g }

variable (l : List Move) (g : Agent)

@[simp] theorem place_params (s : State) : (place l g s).params = s.params := rfl
@[simp] theorem place_a (s : State) : (place l g s).a = s.a := rfl
@[simp] theorem place_b (s : State) : (place l g s).b = s.b := rfl
@[simp] theorem place_c (s : State) : (place l g s).c = s.c := rfl
@[simp] theorem place_ubrrh (s : State) : (place l g s).ubrrh = s.ubrrh := rfl
@[simp] theorem place_ubrrl (s : State) : (place l g s).ubrrl = s.ubrrl := rfl
@[simp] theorem place_txbuf (s : State) : (place l g s).txbuf = s.txbuf := rfl
@[simp] theorem place_txshift (s : State) : (place l g s).txshift = s.txshift := rfl
@[simp] theorem place_rxbuf (s : State) : (place l g s).rxbuf = s.rxbuf := rfl
@[simp] theorem place_ctl (s : State) : (place l g s).ctl = s.ctl := rfl
@[simp] theorem place_txline (s : State) : (place l g s).txline = s.txline := rfl
@[simp] theorem place_faults (s : State) : (place l g s).faults = s.faults := rfl
@[simp] theorem place_refused (s : State) : (place l g s).refused = s.refused := rfl
@[simp] theorem place_mem (s : State) : (place l g s).mem = s.mem := rfl
@[simp] theorem place_returned (s : State) : (place l g s).returned = s.returned := rfl
@[simp] theorem place_draws (s : State) : (place l g s).draws = s.draws := rfl

theorem portWrData_place (d : Byte) (s : State) : portWrData d (place l g s) = place l g (portWrData d s) := by
  cases h : s.b.txen <;> cases h' : s.txbuf <;> simp only [portWrData, place_b, place_txbuf, h, h'] <;> rfl

theorem portWrControlB_place (d : Byte) (s : State) :
    portWrControlB d (place l g s) = place l g (portWrControlB d s) := by
  simp only [portWrControlB, place_b]
  cases controlBRefusal d s.b <;> rfl

theorem portWrBaudHigh_place (hi : BitVec 7) (s : State) :
    portWrBaudHigh hi (place l g s) = place l g (portWrBaudHigh hi s) := by
  cases h : insideMask s.params (zextHigh hi) <;> simp only [portWrBaudHigh, place_params, h] <;> rfl

theorem portWrShared_place (d : Byte) (s : State) :
    portWrShared d (place l g s) = place l g (portWrShared d s) := by
  simp only [portWrShared, portWrBaudHigh_place]
  cases selector d <;> rfl

theorem portRdData_place (s : State) :
    portRdData (place l g s) = ((portRdData s).1, place l g (portRdData s).2) := by
  simp only [portRdData, place_rxbuf]
  cases s.rxbuf <;> rfl

theorem andThen_place {k : State → State} (hk : ∀ s, k (place l g s) = place l g (k s)) (s : State) :
    andThen (place l g s) k = place l g (andThen s k) := by
  cases h : live s <;> simp only [andThen, hk, show live (place l g s) = live s from rfl, h] <;> rfl

theorem controllerStep_place (s : State) : controllerStep (place l g s) = place l g (controllerStep s) := by
  cases h : s.ctl.state <;> simp only [controllerStep, place_ctl, h]
  case txPoll => rfl
  case rxPoll => rfl
  case ssPoll => rfl
  case initWl => exact andThen_place l g (k := goto .initWb) (fun _ => rfl) (portWrBaudLow (lowByte s.ctl.div) s)
  case initWh =>
    simp only [stepInitWh, portWrShared_place, place_ctl]
    exact andThen_place l g (k := goto .initWl) (fun _ => rfl) _
  case initWb =>
    simp only [stepInitWb, portWrControlB_place]
    exact andThen_place l g (k := goto .initWc) (fun _ => rfl) _
  case initWc =>
    simp only [stepInitWc, portWrShared_place]
    exact andThen_place l g (k := goto .idle) (fun _ => rfl) _
  case txAct =>
    simp only [stepTxAct, portWrData_place, place_ctl]
    exact andThen_place l g (k := goto .idle) (fun _ => rfl) _
  case rxAct =>
    simp only [stepRxAct, portRdData_place]
    exact andThen_place l g (k := fun t => setCtl { t.ctl with result := some (portRdData s).1, state := .idle } t)
      (fun _ => rfl) _
  case ssFetch =>
    simp only [stepSsFetch, memRead, place_mem, place_ctl]
    by_cases h : memGet s.mem s.ctl.addr.toNat = 0 <;> simp only [h, if_true, if_false] <;> rfl
  case ssAct =>
    simp only [stepSsAct, portWrData_place, place_ctl]
    refine andThen_place l g (k := fun t => if t.ctl.addr = 0xFFFF then raise .stringWrap t
      else setCtl { t.ctl with addr := t.ctl.addr + 1, state := .ssFetch } t) (fun t => ?_) _
    by_cases h : t.ctl.addr = 0xFFFF <;> simp only [place_ctl, h, if_true, if_false] <;> rfl

theorem completeTx_place (s : State) : completeTx (place l g s) = place l g (completeTx s) := by
  cases h : s.txbuf <;> simp only [completeTx, place_txbuf, place_a, h] <;> rfl

theorem whenAdmitted_place {k : State → State} (hk : ∀ s, k (place l g s) = place l g (k s)) (s : State) :
    whenAdmitted (place l g s) k = place l g (whenAdmitted s k) := by
  cases h : admitted s <;> simp only [whenAdmitted, hk, show admitted (place l g s) = admitted s from rfl, h] <;> rfl

theorem transmitterStep_place (s : State) : transmitterStep (place l g s) = place l g (transmitterStep s) := by
  have hdone : txDone (place l g s) = place l g (txDone s) := by
    refine whenAdmitted_place l g (k := fun s => match s.txshift with
      | none => s
      | some e => completeTx (setTxshift none (emit e s))) (fun t => ?_) s
    simp only [place_txshift]
    cases t.txshift with
    | none => rfl
    | some e => exact completeTx_place l g (setTxshift none (emit e t))
  have hload : txLoad (place l g s) = place l g (txLoad s) := by
    exact whenAdmitted_place l g (k := fun s => setTxbuf none
      (setTxshift (s.txbuf.map fun d => { byte := d, ubrr := ubrr s, c := s.c }) s)) (fun _ => rfl) s
  cases h : txDoneEnabled s <;> cases h' : txLoadEnabled s <;>
    simp only [transmitterStep, hdone, hload, show txDoneEnabled (place l g s) = txDoneEnabled s from rfl,
      show txLoadEnabled (place l g s) = txLoadEnabled s from rfl, h, h'] <;>
    rfl

theorem agentStep_place (a : Agent) (s : State) : agentStep a (place l g s) = place l g (agentStep a s) := by
  cases a
  · exact controllerStep_place l g s
  · exact transmitterStep_place l g s

theorem receiverStep_place (b : Byte) (fe : Bool) (s : State) :
    receiverStep b fe (place l g s) = place l g (receiverStep b fe s) := by
  cases hr : s.b.rxen <;> cases ha : admitted s <;> cases hb : s.rxbuf <;>
    simp only [receiverStep, whenAdmitted, show admitted (place l g s) = admitted s from rfl, place_b, place_rxbuf,
      place_a, hr, ha, hb] <;>
    rfl

theorem effect_place (i : Instr) (s : State) : effect i (place l g s) = place l g (effect i s) := by
  cases i with
  | rdData => simp only [effect, portRdData_place]; rfl
  | wrData d => exact portWrData_place l g d s
  | wrControlB d => exact portWrControlB_place l g d s
  | wrBaudHigh hi => exact portWrBaudHigh_place l g hi s
  | init baud => simp only [effect, acceptInit, place_params]; cases divisor s.params (baudRate baud) <;> rfl
  | rdStatusA => rfl
  | rdControlB => rfl
  | rdShared => rfl
  | rdBaudLow => rfl
  | wrStatusA d => rfl
  | wrControlC c => rfl
  | wrBaudLow d => rfl
  | tx byte => rfl
  | rx => rfl
  | sendstr addr => rfl

theorem whenLive_place {s t : State} {k : State → State} (hk : k (place l g s) = place l g (k s))
    (h : whenLive s k = .next t) : whenLive (place l g s) k = .next (place l g t) := by
  obtain ⟨hl, rfl⟩ := whenLive_next.mp h
  exact whenLive_next.mpr ⟨hl, hk.symm⟩

theorem offerWord_place {w : PortWord} {s t : State} (h : offerWord w s = .next t) :
    offerWord w (place l g s) = .next (place l g t) := by
  unfold offerWord at h ⊢
  split at h
  · rw [exec_eq] at h ⊢
    refine whenLive_place l g ?_ h
    cases hb : busy s <;> simp only [effect_place, show busy (place l g s) = busy s from rfl, hb] <;> rfl
  · rename_i reason _
    cases w <;>
    · refine whenLive_place l g (k := fun s => if busy s then raise _ s else refuse reason s) ?_ h
      cases hb : busy s <;> simp only [show busy (place l g s) = busy s from rfl, hb] <;> rfl

/-- A move other than reset does the same whatever is scheduled after it and whoever's turn it is. -/
theorem perform_place {m : Move} {s t : State} (hm : m ≠ .reset) (h : perform m s = .next t) :
    perform m (place l g s) = .next (place l g t) := by
  cases m with
  | reset => exact absurd rfl hm
  | offer w => exact offerWord_place l g h
  | access n w =>
    simp only [perform, platformAccess, place_params] at h ⊢
    split at h
    · exact offerWord_place l g h
    · exact whenLive_place l g rfl h
  | readBusy => exact whenLive_place l g rfl h
  | readResult =>
    refine whenLive_place l g ?_ h
    simp only [readResult, place_ctl]
    cases s.ctl.result <;> rfl
  | writeMem a b =>
    simp only [perform, writeCallerMemory, show live (place l g s) = live s from rfl,
      show awaitsFetch (place l g s) a = awaitsFetch s a from rfl] at h ⊢
    split at h
    · simp at h
    · rename_i hc
      rw [if_neg hc]
      exact whenLive_place l g (k := storeByte a b) rfl h
  | frame b fe => exact whenLive_place l g (receiverStep_place l g b fe s) h
  | turn a => exact whenLive_place l g (agentStep_place l g a s) h

/-- A move other than reset leaves whose turn it is. -/
theorem perform_turn {m : Move} {s t : State} (hm : m ≠ .reset) (h : perform m s = .next t) : t.turn = s.turn := by
  have e := perform_place s.schedule s.turn hm h
  rw [show place s.schedule s.turn s = s from rfl, h, Host.Outcome.next.injEq] at e
  rw [e]
  rfl

/-- A move does the same whatever is scheduled after it, reset included. -/
theorem perform_setSchedule {m : Move} {s t : State} (h : perform m s = .next t) :
    perform m (setSchedule l s) = .next (setSchedule l t) := by
  by_cases hm : m = .reset
  · subst hm
    simp only [perform, Host.Outcome.next.injEq] at h ⊢
    exact h ▸ rfl
  · rw [show setSchedule l s = place l s.turn s from rfl, perform_place l s.turn hm h, ← perform_turn hm h]
    rfl

/-- A move other than reset is made only from a live state. -/
theorem perform_live {m : Move} {s t : State} (hm : m ≠ .reset) (h : perform m s = .next t) : s.Live := by
  cases perform_next h with
  | reset => exact absurd rfl hm
  | instr _ _ _ hr => exact hr.1
  | reserved _ _ _ hr => exact hr.1
  | contended _ _ _ hl => exact hl
  | elsewhere _ _ hl => exact hl
  | readBusy hl => exact hl
  | readResult hl => exact hl
  | writeMem _ _ hl => exact hl
  | frame _ _ hl => exact hl
  | controller hl => exact hl
  | transmitter hl => exact hl

/-- Along a run every state before a move other than reset is live. -/
theorem IsRun.live {states : Nat → State} {moves : Nat → Move} (h : IsRun states moves) {n : Nat}
    (hm : moves n ≠ .reset) : (states n).Live :=
  perform_live hm (h.next n)

/-- How weak fairness is used: if `P` holds, every move keeps it or leads to `Q`, it enables the step, and taking the step
from it leads to `Q`, then `Q` holds at some later point. -/
theorem WeaklyFair.leads_to {k : FairStep} {states : Nat → State} {moves : Nat → Move}
    (hw : WeaklyFair k states moves) (P Q : State → Prop) {n : Nat} (hP : P (states n))
    (hnext : ∀ m, n ≤ m → P (states m) → P (states (m + 1)) ∨ Q (states (m + 1)))
    (henabled : ∀ m, n ≤ m → P (states m) → k.enabled (states m) = true)
    (htaken : ∀ m, n ≤ m → P (states m) → moves m = .turn k.agent → Q (states (m + 1))) :
    ∃ m, n ≤ m ∧ Q (states m) := by
  by_contra hc
  push Not at hc
  have hall : ∀ j, P (states (n + j)) := by
    intro j
    induction j with
    | zero => exact hP
    | succ j ih => exact (hnext _ (by omega) ih).resolve_right (hc _ (by omega))
  have hall' : ∀ m, n ≤ m → P (states m) := fun m hm => Nat.add_sub_cancel' hm ▸ hall (m - n)
  obtain ⟨m, hm, hmove⟩ := hw n fun m hm => henabled m hm (hall' m hm)
  exact hc _ (by omega) (htaken m hm (hall' m hm) hmove)

end Sys2Proof.Machine
end

