-- ==== Sys2Proof/Tests/Slice0.lean ====
section
/-! SUPPORT. The model's own tests, with the expected values of spec/95_test_vectors.md (the section is named at each
group), and for every statement with hypotheses a witness that meets them. -/

namespace Sys2Proof.Tests

open Sys2Proof.Machine

/-- A field of the next state, where there is one. -/
def after {α : Type} (o : Out) (f : State → α) : Option α :=
  match o with
  | .next t => some (f t)
  | .fault _ => none
  | .refused _ => none

/-- The same parameters with the 12-bit divisor register of the part (ubrrh_mask 0x0F). -/
def narrow : Params := { Config.defaults with ubrrhMask := 0x0F }

/-- The state an INIT 19200 leaves: UBRR 0x0033, both enables set, 8-N-1. -/
def configured : State :=
  { State.reset with b := { ControlB.reset with rxen := true, txen := true }, ubrrl := 0x33 }

/-- `configured`, the controller in a state with the given byte and fetch address. -/
def busyAt (q : CtlState) (byte : Byte) (addr : Addr) : State :=
  { configured with ctl := { Controller.reset with state := q, byte := byte, addr := addr } }

/-- `configured` with a byte received. -/
def received (v : Byte) : State := { configured with rxbuf := some v }

/-- `configured` with a byte waiting in the transmit buffer. -/
def waiting (d : Byte) : State := { configured with txbuf := some d }

/-- `configured` with a byte in the shift stage. -/
def shifting (d : Byte) : State := { configured with txshift := some ⟨d, 0x0033, 0x06⟩ }

/-! The well-formedness check (R69): an ill-formed term for each of its reasons. -/

theorem test_wf_status_a : ¬ (Instr.wrStatusA 0x00).WellFormed 0x7F := by decide

theorem test_wf_interrupt : (Instr.wrControlB 0x24).valueRefusal 0x7F = some .interruptEnable := by decide

theorem test_wf_nine_bit : (Instr.wrControlB 0x1C).valueRefusal 0x7F = some .nineBitMode := by decide

theorem test_wf_baud_high : (Instr.wrBaudHigh 0x10).valueRefusal 0x0F = some .baudHighReservedBits := by decide

theorem test_wf_accepts :
    (Instr.wrBaudHigh 0x0F).WellFormed 0x0F ∧ (Instr.wrControlB 0x18).WellFormed 0x7F ∧
      (Instr.init 0).WellFormed 0x7F := by
  decide

/-! Decoding (95 sections 2.2 and 2.3), each row of the table at least once. -/

theorem test_decode_reads :
    decodeTableWord 16 0x0000 = some .rdData ∧ decodeTableWord 16 0x0100 = some .rdStatusA ∧
    decodeTableWord 16 0x0200 = some .rdControlB ∧ decodeTableWord 16 0x0300 = some .rdShared ∧
    decodeTableWord 16 0x0400 = some .rdBaudLow := by
  decide

theorem test_decode_writes :
    decodeTableWord 16 0x80FF = some (.wrData 0xFF) ∧ decodeTableWord 16 0x8140 = some (.wrStatusA 0x40) ∧
    decodeTableWord 16 0x8218 = some (.wrControlB 0x18) ∧ decodeTableWord 16 0x8433 = some (.wrBaudLow 0x33) := by
  decide

/-- W = 1, Z = 0000, REG = 011, then SEL and seven bits. -/
theorem test_decode_shared :
    decodeTableWord 16 0b1000001101111111 = some (.wrBaudHigh 0x7F) ∧
    decodeTableWord 16 0b1000001110000000 = some (.wrControlC 0x00) ∧
    decodeTableWord 16 0b1000001110000110 = some (.wrControlC 0x06) := by
  decide

theorem test_decode_commands :
    decodeTableWord 32 0x01FFFFFF = some (.init 16777215) ∧ decodeTableWord 32 0x02000048 = some (.tx 0x48) ∧
    decodeTableWord 32 0x03000000 = some .rx ∧ decodeTableWord 32 0x0400FFFF = some (.sendstr 0xFFFF) := by
  decide

theorem test_decode_reserved_bus :
    decodeTableWord 16 0x0001 = none ∧ decodeTableWord 16 0x0500 = none ∧ decodeTableWord 16 0x0800 = none ∧
    decodeTableWord 16 0x4000 = none ∧ decodeTableWord 16 0x8500 = none ∧ decodeTableWord 16 0x8F00 = none := by
  decide

theorem test_decode_reserved_cmd :
    decodeTableWord 32 0x00000000 = none ∧ decodeTableWord 32 0x02000141 = none ∧
    decodeTableWord 32 0x03000001 = none ∧ decodeTableWord 32 0x04010000 = none ∧
    decodeTableWord 32 0x05000000 = none ∧ decodeTableWord 32 0xFF000000 = none := by
  decide

/-- No two rows of a format match one word. -/
theorem test_rows_disjoint :
    busRows.Pairwise (fun p q => p.pattern &&& q.mask ≠ q.pattern ∧ q.pattern &&& p.mask ≠ p.pattern) ∧
    cmdRows.Pairwise (fun p q => p.pattern &&& q.mask ≠ q.pattern ∧ q.pattern &&& p.mask ≠ p.pattern) := by
  decide

/-- R71 and R72: a character literal, an operand out of range, and the pseudo-instructions. -/
theorem test_assemble :
    assemble 0x7F (.tx (.chr 0x48)) = some [.cmd 0x02000048] ∧ assemble 0x7F (.tx (.num 256)) = none ∧
    assemble 0x7F (.ldbaud (.num 0x0033)) = some [.bus 0x8300, .bus 0x8433] ∧
    assemble 0x0F (.ldbaud (.num 0x1001)) = none ∧
    assemble 0x7F (.wrShared (.num 0x86)) = some [.bus 0x8386] := by
  decide

/-- A character literal is an 8-bit code (R71): the widest operand takes 0xFF and no character above it. -/
theorem test_char_literal :
    assembleText 0x7F "INIT 'ÿ'".toList = some [.cmd 0x010000FF] ∧
    assembleText 0x7F "INIT 'Ā'".toList = none ∧ assembleText 0x7F "SENDSTR 'Ω'".toList = none ∧
    assembleText 0x7F "LDBAUD 'Ω'".toList = none := by
  decide

/-- Lines of 95 programs P1, P3 and P4, and one with an operand out of range. -/
theorem test_assemble_text :
    assembleText 0x7F "TX 'H'".toList = some [.cmd 0x02000048] ∧
    assembleText 0x7F "INIT 19200".toList = some [.cmd 0x01004B00] ∧
    assembleText 0x7F "LDBAUD 0x0033".toList = some [.bus 0x8300, .bus 0x8433] ∧
    assembleText 0x7F "RD BAUD_LOW".toList = some [.bus 0x0400] ∧
    assembleText 0x7F "WR CONTROL_B, 0x19".toList = some [.bus 0x8219] ∧
    assembleText 0x7F "TX 256".toList = none := by
  decide

/-! The divisor (95 section 2.1). -/

theorem test_divisor_16mhz :
    divisor Config.defaults 19200 = .ok 51 ∧ divisor Config.defaults 31 = .ok 0x7E01 ∧
    divisor Config.defaults 1000000 = .ok 0 ∧ divisor Config.defaults 115200 = .ok 7 := by
  simp [divisor, divmax, Config.defaults]

theorem test_divisor_faults :
    divisor Config.defaults 0 = .error .baudZero ∧ divisor Config.defaults 30 = .error .divisorRange ∧
    divisor Config.defaults 1000001 = .error .divisorRange := by
  simp [divisor, divmax, Config.defaults]

theorem test_divisor_narrow :
    divisor narrow 245 = .ok 0x0FF0 ∧ divisor narrow 244 = .error .divisorRange := by
  simp [divisor, divmax, narrow, Config.defaults]

/-! Register-port transactions (95 section 2.4). -/

theorem test_rd_data :
    after (exec .rdData { received 0x41 with a := { StatusA.reset with fe := true } })
      (fun t => (t.returned, t.rxbuf, t.a.fe)) = some ([.read 0x41], none, false) := by
  decide

theorem test_rd_data_empty : after (exec .rdData configured) (·.faults) = some [.rxEmptyRead] := by decide

theorem test_wr_data :
    after (exec (.wrData 0x49) (shifting 0x48)) (fun t => (t.txbuf, t.faults)) = some (some 0x49, []) := by
  decide

theorem test_wr_data_faults :
    after (exec (.wrData 0x49) (waiting 0x48)) (fun t => (t.txbuf, t.faults)) =
      some (some 0x48, [.txOverwrite]) ∧
    after (exec (.wrData 0x41) State.reset) (fun t => (t.txbuf, t.faults)) = some (none, [.txDisabled]) := by
  decide

theorem test_rd_status_a :
    after (exec .rdStatusA State.reset) (·.returned) = some [.read 0x20] ∧
    after (exec .rdStatusA
      { received 0x41 with a := { StatusA.reset with fe := true, txc := true }, txbuf := some 0x48 })
      (·.returned) = some [.read 0xD0] := by
  decide

theorem test_wr_status_a :
    after (exec (.wrStatusA 0x40) configured) (fun t => (t.refused, t.a)) =
      some (some .writeStatusA, StatusA.reset) := by
  decide

/-- After the word 0x821B, which writes RXB8 too. -/
theorem test_rd_control_b :
    after (exec .rdControlB { State.reset with b := storeEnables 0x1B .reset }) (·.returned) =
      some [.read 0x19] := by
  decide

theorem test_wr_control_b :
    after (exec (.wrControlB 0x18) State.reset) (·.b) =
      some { ControlB.reset with rxen := true, txen := true } := by
  decide

theorem test_wr_control_b_order :
    after (exec (.wrControlB 0x24) configured) (·.refused) = some (some .interruptEnable) ∧
    after (exec (.wrControlB 0x04) configured) (·.refused) = some (some .nineBitMode) ∧
    after (exec (.wrControlB 0x08) configured) (·.refused) = some (some .disableRxTx) ∧
    after (exec (.wrControlB 0x00) State.reset) (·.refused) = some none := by
  decide

theorem test_rd_shared : after (exec .rdShared configured) (fun t => (t.ubrrh, t.c, t.faults, t.refused)) =
    some (0x00, 0x06, [], none) := by
  decide

theorem test_wr_baud_high :
    after (exec (.wrBaudHigh 0x7F) configured) (·.ubrrh) = some 0x7F ∧
    after (exec (.wrBaudHigh 0x10) { configured with params := narrow }) (fun t => (t.ubrrh, t.refused)) =
      some (0x00, some .baudHighReservedBits) := by
  decide

theorem test_wr_control_c : after (exec (.wrControlC 0x00) configured) (·.c) = some 0x00 := by decide

theorem test_rd_baud_low : after (exec .rdBaudLow configured) (·.returned) = some [.read 0x33] := by decide

theorem test_wr_baud_low : after (exec (.wrBaudLow 0xFF) configured) (·.ubrrl) = some 0xFF := by decide

/-! Commands and ownership (95 sections 2.4, 2.6 and 2.7). -/

theorem test_init :
    after (exec (.init 19200) State.reset) (fun t => (t.ctl.div, t.ctl.state)) = some (0x0033, .initWh) := by
  decide

theorem test_init_faults :
    after (exec (.init 0) State.reset) (fun t => (t.faults, t.ctl.state)) = some ([.baudZero], .idle) ∧
    after (exec (.init 2000000) State.reset) (fun t => (t.faults, t.ctl.state)) =
      some ([.divisorRange], .idle) := by
  decide

theorem test_tx :
    after (exec (.tx 0x41) configured) (fun t => (t.ctl.byte, t.ctl.state)) = some (0x41, .txPoll) := by
  decide

theorem test_rx :
    after (exec .rx { configured with ctl := { Controller.reset with result := some 0x5A } })
      (fun t => (t.ctl.result, t.ctl.state)) = some (none, .rxPoll) := by
  decide

theorem test_sendstr :
    after (exec (.sendstr 0x0100) configured) (fun t => (t.ctl.addr, t.ctl.state)) =
      some (0x0100, .ssFetch) := by
  decide

theorem test_busy_before_decode :
    after (perform (.offer (.cmd 0x00000000)) (busyAt .rxPoll 0 0)) (fun t => (t.faults, t.refused)) =
      some ([.cmdBusy], none) ∧
    after (perform (.offer (.bus 0x0500)) (busyAt .initWb 0 0)) (fun t => (t.faults, t.refused)) =
      some ([.busContention], none) ∧
    after (perform (.offer (.cmd 0x05000000)) configured) (·.refused) = some (some .reservedCommand) := by
  decide

/-! Controller steps (95 section 2.6). -/

theorem test_init_wh :
    after (perform (.turn .controller)
      { State.reset with ctl := { Controller.reset with div := 0x0D04, state := .initWh } })
      (fun t => (t.ubrrh, t.c, t.ctl.state)) = some (0x0D, 0x06, .initWl) := by
  decide

theorem test_init_wl :
    after (perform (.turn .controller)
      { State.reset with ctl := { Controller.reset with div := 0x0D04, state := .initWl } })
      (fun t => (t.ubrrl, t.ctl.state)) = some (0x04, .initWb) := by
  decide

theorem test_init_wb_wc :
    after (perform (.turn .controller) { State.reset with ctl := { Controller.reset with state := .initWb } })
      (fun t => (controlBByte t.b, t.ctl.state)) = some (0x18, .initWc) ∧
    after (perform (.turn .controller) { busyAt .initWc 0 0 with c := 0x00 })
      (fun t => (t.c, t.ubrrh, t.ctl.state)) = some (0x06, 0x00, .idle) := by
  decide

theorem test_polls :
    after (perform (.turn .controller) (busyAt .txPoll 0x41 0)) (·.ctl.state) = some .txAct ∧
    after (perform (.turn .controller) { busyAt .txPoll 0x41 0 with txbuf := some 0x48 }) (·.ctl.state) =
      some .txPoll ∧
    after (perform (.turn .controller) (busyAt .rxPoll 0 0)) (·.ctl.state) = some .rxPoll ∧
    after (perform (.turn .controller) { busyAt .rxPoll 0 0 with rxbuf := some 0x5A }) (·.ctl.state) =
      some .rxAct := by
  decide

theorem test_acts :
    after (perform (.turn .controller) (busyAt .txAct 0x41 0)) (fun t => (t.txbuf, t.ctl.state)) =
      some (some 0x41, .idle) ∧
    after (perform (.turn .controller) { busyAt .rxAct 0 0 with rxbuf := some 0x5A })
      (fun t => (t.ctl.result, t.rxbuf, t.ctl.state)) = some (some 0x5A, none, .idle) ∧
    after (perform (.turn .controller) (busyAt .ssAct 0x41 0x0100)) (fun t => (t.ctl.addr, t.ctl.state)) =
      some (0x0101, .ssFetch) := by
  decide

/-- At 0xFFFF the byte is written before F9, and with TXEN = 0 the write's F4 is the step's one fault. -/
theorem test_string_wrap :
    after (perform (.turn .controller) (busyAt .ssAct 0x41 0xFFFF)) (fun t => (t.txbuf, t.faults)) =
      some (some 0x41, [.stringWrap]) ∧
    after (perform (.turn .controller) { busyAt .ssAct 0x41 0xFFFF with b := .reset }) (·.faults) =
      some [.txDisabled] := by
  decide

theorem test_fetch :
    after (perform (.turn .controller) { busyAt .ssFetch 0 0x0100 with mem := [(0x0100, 0x41)] })
      (fun t => (t.ctl.byte, t.ctl.state)) = some (0x41, .ssPoll) ∧
    after (perform (.turn .controller) { busyAt .ssFetch 0 0x0102 with mem := [(0x0100, 0x41)] })
      (fun t => (t.ctl.state, t.txbuf)) = some (.idle, none) := by
  decide

/-! Host reads, the serial engine and reset (95 sections 2.5 to 2.8). -/

theorem test_host_reads :
    after (perform .readBusy (busyAt .initWl 0 0)) (·.returned) = some [.busy true] ∧
    after (perform .readResult { configured with ctl := { Controller.reset with result := some 0x5A } })
      (fun t => (t.returned, t.ctl.result)) = some ([.result 0x5A], some 0x5A) ∧
    after (perform .readResult State.reset) (·.faults) = some [.noResult] := by
  decide

/-- The byte at the fetch address may be written once it is fetched, the one above it not yet. -/
theorem test_write_mem :
    after (perform (.writeMem 0x0100 0x5A) (busyAt .ssPoll 0x41 0x0100)) (·.mem) = some [(0x0100, 0x5A)] ∧
    after (perform (.writeMem 0x0101 0x5A) (busyAt .ssPoll 0x41 0x0100)) (·.mem) = none := by
  decide

theorem test_tx_load :
    after (perform (.turn .transmitter) (waiting 0x48)) (fun t => (t.txshift, t.txbuf)) =
      some (some ⟨0x48, 0x0033, 0x06⟩, none) ∧
    after (perform (.turn .transmitter) { waiting 0x48 with c := 0x0E }) (fun t => (t.txbuf, t.refused)) =
      some (some 0x48, some .frameNotAdmitted) := by
  decide

theorem test_tx_done :
    after (perform (.turn .transmitter) { shifting 0x48 with ubrrl := 0x67 })
      (fun t => (t.txline, t.txshift, t.a.txc)) = some ([⟨0x48, 0x0033, 0x06⟩], none, true) ∧
    after (perform (.turn .transmitter) { shifting 0x48 with txbuf := some 0x49 })
      (fun t => (t.txbuf, t.a.txc)) = some (some 0x49, false) := by
  decide

theorem test_rx_frame :
    after (perform (.frame 0x00 true) configured) (fun t => (t.rxbuf, statusAByte t)) = some (some 0x00, 0xB0) ∧
    after (perform (.frame 0x33 false) (received 0x5A)) (fun t => (t.rxbuf, t.a.dor, t.faults)) =
      some (some 0x5A, true, [.rxOverrun]) ∧
    after (perform (.frame 0x5A false) State.reset) (fun t => (t.rxbuf, t.refused)) = some (none, none) ∧
    after (perform (.frame 0x5A false) { configured with c := 0x07 }) (·.refused) =
      some (some .frameNotAdmitted) := by
  decide

theorem test_reset :
    after (perform .reset { waiting 0x42 with txshift := some ⟨0x41, 0x0067, 0x06⟩, faults := [.txOverwrite] })
      (fun t => (statusAByte t, t.txbuf, t.txshift, t.txline.length, t.faults)) =
      some (0x20, none, none, 0, []) := by
  decide

/-- The word placed by `withFetchWord` is what the first step after reset runs. -/
theorem test_first_step :
    after (step (State.reset.withFetchWord 32 0x01004B00)) (fun t => (t.ctl.div, t.ctl.state)) =
      some (0x0033, .initWh) ∧
    after (step (State.reset.withFetchWord 16 0x0100)) (·.returned) = some [.read 0x20] := by
  decide

/-! Witnesses: for each statement with hypotheses, states and operands that meet them, each clause. -/

theorem witness_EncodeDecodeAgree :
    decode (.bus 0x837F) = .ok (.wrBaudHigh 0x7F) ∧ decode (.cmd 0x01FFFFFF) = .ok (.init 0xFFFFFF) :=
  ⟨rfl, rfl⟩

theorem witness_PseudoInstructionsExpand :
    assemble 0x7F (.wrShared (.num 255)) = some [.bus 0x83FF] ∧
    (0x7FFF < 65536 ∧ BitVec.ofNat 8 (0x7FFF / 256) &&& ~~~0x7F#8 = 0) ∧
    BitVec.ofNat 8 (0x00FF / 256) &&& ~~~0x00#8 = 0 := by
  decide

theorem witness_StepRunsDecodedInstruction :
    ({ configured with schedule := [.offer (.bus 0x8048)] } : State).schedule = .offer (.bus 0x8048) :: [] ∧
    decode (.bus 0x8048) = .ok (.wrData 0x48) ∧ decodeTableWord 32 0x03000000 = some .rx ∧
    (configured.Live ∧ configured.schedule = [] ∧ configured.turn = .controller) ∧
    ({ configured with turn := .transmitter } : State).params.txClockRuns = true ∧
    ({ configured with turn := .transmitter, params := { narrow with txClockRuns := false } } :
      State).params.txClockRuns = false :=
  ⟨rfl, rfl, rfl, by decide, rfl, rfl⟩

theorem witness_OwnershipBeforeDecode :
    (busyAt .txPoll 0 0).Live ∧ (busyAt .txPoll 0 0).ctl.state ≠ .idle := by
  decide

theorem witness_ReservedWordRecorded :
    State.reset.HostReady ∧ decode (.bus 0x0500) = .error .reservedBusWord ∧
      decode (.cmd 0xFF000000) = .error .reservedCommand :=
  ⟨by decide, rfl, rfl⟩

theorem witness_ValueRefusalsRecorded :
    configured.HostReady ∧
    (Instr.wrStatusA 0xFF).valueRefusal configured.params.ubrrhMask = some .writeStatusA ∧
    (Instr.wrControlB 0x20).valueRefusal configured.params.ubrrhMask = some .interruptEnable ∧
    (Instr.wrControlB 0x04).valueRefusal configured.params.ubrrhMask = some .nineBitMode ∧
    ({ configured with params := narrow } : State).HostReady ∧
    (Instr.wrBaudHigh 0x10).valueRefusal narrow.ubrrhMask = some .baudHighReservedBits := by
  decide

theorem witness_FaultedIsQuiescent :
    ({ configured with faults := [.txOverwrite] } : State).faults ≠ [] ∧
    ({ configured with refused := some .writeStatusA } : State).refused = some .writeStatusA ∧
    configured.faults = [] ∧ configured.schedule = [] ∧ Move.readBusy ≠ .reset := by
  decide

/-- The hypotheses of the results of RD_DATA and WR_DATA, clause by clause. -/
theorem witness_DataResults :
    ((received 0xFF).HostReady ∧ (received 0xFF).rxbuf = some 0xFF) ∧
    (configured.HostReady ∧ configured.rxbuf = none) ∧
    (State.reset.HostReady ∧ State.reset.b.txen = false) ∧
    ((waiting 0x48).HostReady ∧ (waiting 0x48).b.txen = true ∧ (waiting 0x48).txbuf ≠ none) ∧
    (configured.b.txen = true ∧ configured.txbuf = none) := by
  decide

/-- The hypothesis of the other register results, of InitAcceptance, TransferAcceptance and the frames. -/
theorem witness_HostReady :
    State.reset.HostReady ∧ configured.HostReady ∧ (shifting 0x48).HostReady ∧
    ({ configured with params := narrow } : State).HostReady := by
  decide

theorem witness_TransactionFrame :
    (∃ t, exec .rdData (received 0x41) = .next t) ∧ (∃ t, exec .rdStatusA configured = .next t) ∧
    (∃ t, exec .rdControlB configured = .next t) ∧ (∃ t, exec .rdBaudLow configured = .next t) ∧
    (∃ t, exec .rdShared configured = .next t) ∧ (∃ t, exec (.wrData 0x48) configured = .next t) ∧
    (∃ t, exec (.wrStatusA 0) configured = .next t) ∧ (∃ t, exec (.wrControlB 0x19) configured = .next t) ∧
    (∃ t, exec (.wrBaudHigh 0x7F) configured = .next t) ∧ (∃ t, exec (.wrControlC 0x7F) configured = .next t) ∧
    (∃ t, exec (.wrBaudLow 0xFF) configured = .next t) :=
  ⟨⟨_, rfl⟩, ⟨_, rfl⟩, ⟨_, rfl⟩, ⟨_, rfl⟩, ⟨_, rfl⟩, ⟨_, rfl⟩, ⟨_, rfl⟩, ⟨_, rfl⟩, ⟨_, rfl⟩, ⟨_, rfl⟩, ⟨_, rfl⟩⟩

theorem witness_CommandFrame :
    (∃ t, exec (.init 19200) configured = .next t) ∧ (∃ t, exec (.tx 0xFF) configured = .next t) ∧
    (∃ t, exec .rx configured = .next t) ∧ (∃ t, exec (.sendstr 0xFFFF) configured = .next t) :=
  ⟨⟨_, rfl⟩, ⟨_, rfl⟩, ⟨_, rfl⟩, ⟨_, rfl⟩⟩

theorem witness_PlatformAccess :
    configured.params.Valid ∧ configured.Live ∧
    (5 ≠ configured.params.regAddr.data ∧ 5 ≠ configured.params.regAddr.statusA ∧
      5 ≠ configured.params.regAddr.controlB ∧ 5 ≠ configured.params.regAddr.shared ∧
      5 ≠ configured.params.regAddr.baudLow) ∧
    after (perform (.access 3 (some 0x86)) { configured with c := 0x00 }) (fun t => (t.c, t.ubrrh)) =
      some (0x06, 0x00) := by
  decide

/-- The boundary rates at 16 MHz: 30 and 31 either side of divmax, 1,000,000 and 1,000,001 either side of q = 0. -/
theorem witness_DivisorComputation :
    Config.defaults.Valid ∧
    (Config.defaults.fClk / (16 * 1000001) = 0) ∧
    (Config.defaults.fClk / (16 * 30) ≠ 0 ∧
      Config.defaults.ubrrhMask.toNat * 256 + 255 < Config.defaults.fClk / (16 * 30) - 1) ∧
    (Config.defaults.fClk / (16 * 31) ≠ 0 ∧
      Config.defaults.fClk / (16 * 31) - 1 ≤ Config.defaults.ubrrhMask.toNat * 256 + 255) ∧
    Config.defaults.fClk / (16 * 1000000) ≠ 0 := by
  decide

theorem witness_NominalRateBounds :
    Config.defaults.Valid ∧ divisor Config.defaults 250000 = .ok 3 ∧ 16 * 250000 ∣ Config.defaults.fClk :=
  ⟨by decide, by simp [divisor, divmax, Config.defaults], by decide⟩

theorem witness_InitAcceptance :
    configured.HostReady ∧ divisor configured.params (31#24).toNat = .ok 0x7E01 ∧
      divisor configured.params (30#24).toNat = .error .divisorRange := by
  refine ⟨by decide, ?_⟩
  simp [divisor, divmax, configured, State.reset, State.launch, Config.defaults]

theorem witness_InitWriteSteps :
    ((busyAt .initWh 0 0).Live ∧ (busyAt .initWh 0 0).ctl.state = .initWh ∧
      (busyAt .initWh 0 0).ctl.div.extractLsb' 8 8 &&& ~~~(busyAt .initWh 0 0).params.ubrrhMask = 0 ∧
      (busyAt .initWh 0 0).params.Valid) ∧
    ((busyAt .initWl 0 0).Live ∧ (busyAt .initWl 0 0).ctl.state = .initWl) ∧
    ((busyAt .initWb 0 0).Live ∧ (busyAt .initWb 0 0).ctl.state = .initWb) ∧
    ((busyAt .initWc 0 0).Live ∧ (busyAt .initWc 0 0).ctl.state = .initWc) := by
  decide

/-- A configured, idle block meets the invariant, whatever received byte it holds and whatever the caller memory. -/
theorem witness_Inv (v : Option Byte) {m : Memory} (hm : Memory.wf m) :
    ({ configured with rxbuf := v, mem := m } : State).Inv where
  params := (by decide : configured.params.Valid)
  memory := hm
  oneFault := (by decide : configured.faults.length ≤ 1)
  oneOutcome := .inl rfl
  heldB := ⟨rfl, rfl, rfl, rfl, rfl⟩
  heldA := ⟨rfl, rfl, rfl⟩
  overrun := fun h => nomatch h
  baudHigh := (by decide : insideMask configured.params configured.ubrrh = true)
  divLoadable := (by decide : insideMask configured.params (highByte configured.ctl.div) = true)
  txEnabled := fun _ => rfl
  rxEnabled := fun _ => rfl
  frameError := fun h => nomatch h
  txActReady := fun _ => rfl
  ssActReady := fun _ _ => rfl
  rxActReady := fun h => nomatch h
  notTerminator := fun h => h.elim (fun h => nomatch h) fun h => nomatch h
  shiftOk := fun _ h => nomatch h
  lineOk := fun _ h => nomatch h

theorem witness_InitWholeEffect :
    ({ configured with rxbuf := none } : State).Inv ∧ configured.HostReady ∧
      divisor configured.params (19200#24).toNat = .ok 51 :=
  ⟨witness_Inv none (m := []) (by decide), by decide,
    by simp [divisor, divmax, configured, State.reset, State.launch, Config.defaults]⟩

theorem witness_PollSteps :
    ((busyAt .txPoll 0x41 0).Live ∧ (busyAt .txPoll 0x41 0).ctl.state = .txPoll) ∧
    ((busyAt .rxPoll 0 0).Live ∧ (busyAt .rxPoll 0 0).ctl.state = .rxPoll) ∧
    ((busyAt .ssPoll 0x41 0).Live ∧ (busyAt .ssPoll 0x41 0).ctl.state = .ssPoll) := by
  decide

theorem witness_ActSteps :
    ((busyAt .txAct 0x41 0).Live ∧ (busyAt .txAct 0x41 0).ctl.state = .txAct ∧
      (busyAt .txAct 0x41 0).b.txen = true ∧ (busyAt .txAct 0x41 0).txbuf = none) ∧
    (({ busyAt .rxAct 0 0 with rxbuf := some 0x5A } : State).ctl.state = .rxAct ∧
      ({ busyAt .rxAct 0 0 with rxbuf := some 0x5A } : State).rxbuf = some 0x5A) ∧
    ((busyAt .ssFetch 0 0xFFFF).ctl.state = .ssFetch ∧
      memRead (busyAt .ssFetch 0 0xFFFF) (busyAt .ssFetch 0 0xFFFF).ctl.addr = 0) ∧
    (memRead { busyAt .ssFetch 0 0x0100 with mem := [(0x0100, 0x41)] } 0x0100 ≠ 0) ∧
    ((busyAt .ssAct 0x41 0xFFFE).ctl.state = .ssAct ∧ (busyAt .ssAct 0x41 0xFFFE).b.txen = true ∧
      (busyAt .ssAct 0x41 0xFFFE).txbuf = none ∧ (busyAt .ssAct 0x41 0xFFFE).ctl.addr ≠ 0xFFFF) ∧
    ((busyAt .ssAct 0x41 0xFFFF).Live ∧ (busyAt .ssAct 0x41 0xFFFF).ctl.addr = 0xFFFF) := by
  decide

theorem witness_ActRaisesTxDisabled :
    (({ busyAt .txAct 0x41 0 with b := .reset } : State).Live ∧
      ({ busyAt .txAct 0x41 0 with b := .reset } : State).ctl.state = .txAct ∧
      ({ busyAt .txAct 0x41 0 with b := .reset } : State).b.txen = false) ∧
    ({ busyAt .ssAct 0x41 0xFFFF with b := .reset } : State).ctl.state = .ssAct := by
  decide

theorem witness_HostPortReads :
    configured.Live ∧ configured.ctl.result = none ∧
    ({ configured with ctl := { Controller.reset with result := some 0x5A } } : State).Live := by
  decide

theorem witness_EngineSteps :
    ((waiting 0x48).Live ∧ (waiting 0x48).b.txen = true ∧ (waiting 0x48).txbuf = some 0x48 ∧
      (waiting 0x48).txshift = none) ∧
    ((shifting 0x48).Live ∧ (shifting 0x48).txshift = some ⟨0x48, 0x0033, 0x06⟩) ∧
    (received 0x5A).Live := by
  decide

theorem witness_CallerMemoryUntouched :
    (∃ t, perform (.turn .controller) (busyAt .ssFetch 0 0) = .next t) ∧
    (∀ a b, Move.turn .controller ≠ .writeMem a b) ∧
    (∃ t, perform (.turn .controller) (busyAt .ssPoll 0x41 0) = .next t) ∧
    (busyAt .ssPoll 0x41 0).ctl.state ≠ .ssFetch :=
  ⟨⟨_, rfl⟩, (fun _ _ h => nomatch h), ⟨_, rfl⟩, by decide⟩

/-- The fetch address itself is still unfetched in SS_FETCH and no longer in SS_POLL and SS_ACT; the byte above it is
in all three; outside SendString no byte is. -/
theorem witness_HostMemoryWrite :
    (configured.Live ∧ Memory.wf configured.mem ∧ configured.ctl.state = .idle) ∧
    ((busyAt .ssFetch 0 0x0100).ctl.state = .ssFetch ∧ (busyAt .ssFetch 0 0x0100).ctl.addr.toNat ≤ (0x0100#16).toNat ∧
      ¬ (busyAt .ssFetch 0 0x0100).ctl.addr.toNat ≤ (0x00FF#16).toNat) ∧
    ((busyAt .ssPoll 0 0x0100).ctl.state = .ssPoll ∧ (busyAt .ssPoll 0 0x0100).ctl.addr.toNat < (0x0101#16).toNat ∧
      ¬ (busyAt .ssPoll 0 0x0100).ctl.addr.toNat < (0x0100#16).toNat) ∧
    (busyAt .ssAct 0 0xFFFE).ctl.addr.toNat < (0xFFFF#16).toNat := by
  decide

theorem witness_StepKeepsInvariant :
    ({ configured with rxbuf := some 0x5A } : State).Inv ∧ (∃ t, step (received 0x5A) = .next t) :=
  ⟨witness_Inv _ (m := []) (by decide), ⟨_, rfl⟩⟩

theorem witness_ReachableStatesMeetR37 :
    (setSchedule [.offer (.cmd 0x01004B00)] (State.launch narrow [(0x0100, 0x41)])).Reachable ∧
    (setSchedule [.offer (.cmd 0x01004B00)] (State.launch narrow [(0x0100, 0x41)])).Live :=
  ⟨.launch _ _ _ (by decide) (by decide), by decide⟩

theorem witness_ControllerFaults :
    ({ configured with rxbuf := none } : State).Inv ∧
    ∃ t, perform (.turn .controller) { configured with rxbuf := none } = .next t :=
  ⟨witness_Inv none (m := []) (by decide), ⟨_, rfl⟩⟩

theorem witness_Stability :
    (configured.txbuf = none ∧ ∃ t, perform (.turn .transmitter) configured = .next t) ∧
    ((received 0x5A).rxbuf = some 0x5A ∧ (∃ t, perform (.frame 0x33 false) (received 0x5A) = .next t) ∧
      Move.frame 0x33 false ≠ .access (received 0x5A).params.regAddr.data none ∧
      Move.frame 0x33 false ≠ .reset) ∧
    ({ configured with a := { StatusA.reset with txc := true } } : State).a.txc = true ∧
    (∃ t, perform (.turn .transmitter) (shifting 0x48) = .next t ∧ t.txline = [⟨0x48, 0x0033, 0x06⟩]) ∧
    (shifting 0x48).txshift = some ⟨0x48, 0x0033, 0x06⟩ ∧ Move.turn .transmitter ≠ .reset :=
  ⟨⟨rfl, ⟨_, rfl⟩⟩, ⟨rfl, ⟨_, rfl⟩, by decide, by decide⟩, rfl, ⟨_, rfl, rfl⟩, rfl, by decide⟩

theorem witness_ReceivedByteComesFromAFrame :
    configured.rxbuf ≠ some 0x5A ∧
    ∃ t, perform (.frame 0x5A false) configured = .next t ∧ t.rxbuf = some 0x5A :=
  ⟨by decide, ⟨_, rfl, rfl⟩⟩

theorem witness_Final : configured.Final := ⟨rfl, rfl, rfl, rfl, rfl⟩

/-- The states that moves lead to, as long as they answer a next state. -/
def follow (moves : Nat → Move) (s : State) : Nat → State
  | 0 => s
  | n + 1 =>
    match perform (moves n) (follow moves s n) with
    | .next t => t
    | .fault _ => follow moves s n
    | .refused _ => follow moves s n

theorem follow_succ {moves : Nat → Move} {s t : State} {n : Nat}
    (h : perform (moves n) (follow moves s n) = .next t) : follow moves s (n + 1) = t := by
  simp only [follow, h]

/-- The host offers a word, and then the two agents take turns. -/
def offerThenTurns (w : PortWord) : Nat → Move
  | 0 => .offer w
  | n + 1 => alternating .controller n

theorem alternating_turn (g : Agent) (n : Nat) : ∃ h, alternating g n = .turn h := by
  induction n generalizing g with
  | zero => exact ⟨g, rfl⟩
  | succ n ih => exact ih (otherAgent g)

theorem alternating_even (g : Agent) (n : Nat) :
    alternating g (2 * n) = .turn g ∧ alternating g (2 * n + 1) = .turn (otherAgent g) := by
  induction n with
  | zero => exact ⟨rfl, rfl⟩
  | succ n ih => cases g <;> exact ih

/-- A run of `offerThenTurns` that reaches a state at which the turns change nothing is an infinite run, and meets
R154. -/
theorem offerThenTurns_fair {w : PortWord} {s : State} (N : Nat) (hN : 0 < N)
    (hstart : ∀ n < N, perform (offerThenTurns w n) (follow (offerThenTurns w) s n) =
      .next (follow (offerThenTurns w) s (n + 1)))
    (hstill : ∀ g, perform (.turn g) (follow (offerThenTurns w) s N) = .next (follow (offerThenTurns w) s N)) :
    FairRun (follow (offerThenTurns w) s) (offerThenTurns w) := by
  have hturn : ∀ n, N ≤ n → ∃ g, offerThenTurns w n = .turn g := by
    rintro (_ | n) h
    · omega
    · exact alternating_turn .controller n
  have hlast : ∀ k, follow (offerThenTurns w) s (N + k) = follow (offerThenTurns w) s N := by
    intro k
    induction k with
    | zero => rfl
    | succ k ih =>
      obtain ⟨g, hg⟩ := hturn (N + k) (by omega)
      exact follow_succ (n := N + k) (by rw [hg, ih, hstill])
  have hfair : ∀ n g, ∃ m, n ≤ m ∧ offerThenTurns w m = .turn g := by
    intro n g
    cases g
    · exact ⟨2 * n + 1, by omega, (alternating_even .controller n).1⟩
    · exact ⟨2 * n + 2, by omega, (alternating_even .controller n).2⟩
  refine ⟨⟨fun n => ?_⟩, fun n _ => hfair n _, fun _ => ⟨fun n _ => hfair n _, fun n _ => hfair n _⟩⟩
  by_cases h : n < N
  · exact hstart n h
  · obtain ⟨k, rfl⟩ := Nat.exists_eq_add_of_le (Nat.le_of_not_lt h)
    obtain ⟨g, hg⟩ := hturn (N + k) (by omega)
    rw [hg, hlast, Nat.add_assoc, hlast, hstill]

theorem offerThenTurns_undisturbing (w : PortWord) (n : Nat) (h : 0 < n) :
    (offerThenTurns w n).undisturbing = true := by
  obtain _ | n := n
  · omega
  · obtain ⟨g, hg⟩ := alternating_turn .controller n
    simp only [offerThenTurns, hg, Move.undisturbing]

/-- TX 0x41 on a configured block: seven moves to the final state. -/
def txMoves : Nat → Move := offerThenTurns (encode (.tx 0x41))

theorem txRun_fair : FairRun (follow txMoves configured) txMoves :=
  offerThenTurns_fair 7 (by decide)
    (fun n h => by interval_cases n <;> rfl)
    (fun g => by cases g <;> rfl)

/-- `configured`, with the string "A" at 0x0100. -/
def withString : State := { configured with mem := [(0x0100, 0x41)] }

/-- SENDSTR 0x0100 on that block: nine moves to the final state. -/
def sendMoves : Nat → Move := offerThenTurns (encode (.sendstr 0x0100))

theorem sendRun_fair : FairRun (follow sendMoves withString) sendMoves :=
  offerThenTurns_fair 9 (by decide)
    (fun n h => by interval_cases n <;> rfl)
    (fun g => by cases g <;> rfl)

theorem witness_TransmitReachesLine :
    FairRun (follow txMoves configured) txMoves ∧ (follow txMoves configured 0).Inv ∧ configured.Final ∧
    configured.params.txClockRuns = true ∧ configured.b.txen = true ∧ configured.c = 0x06 ∧
    txMoves 0 = .offer (encode (.tx 0x41)) ∧ (∀ n, 0 < n → (txMoves n).undisturbing = true) ∧
    (follow txMoves configured 7).txline = [⟨0x41, 0x0033, 0x06⟩] :=
  ⟨txRun_fair, witness_Inv none (m := []) (by decide), witness_Final, rfl, rfl, rfl, rfl,
    offerThenTurns_undisturbing _, rfl⟩

theorem witness_SendStringSendsExactlyTheString :
    FairRun (follow sendMoves withString) sendMoves ∧ (follow sendMoves withString 0).Inv ∧ withString.Final ∧
    withString.params.txClockRuns = true ∧ withString.b.txen = true ∧ withString.c = 0x06 ∧
    stringAt withString.mem (0x0100#16).toNat [0x41] ∧ stringAt withString.mem 0xFFFF [] ∧
    sendMoves 0 = .offer (encode (.sendstr 0x0100)) ∧ (∀ n, 0 < n → (sendMoves n).undisturbing = true) ∧
    (follow sendMoves withString 9).txline = [⟨0x41, 0x0033, 0x06⟩] :=
  ⟨sendRun_fair, witness_Inv none (m := [(0x0100, 0x41)]) (by decide), ⟨rfl, rfl, rfl, rfl, rfl⟩, rfl, rfl, rfl,
    ⟨rfl, by decide, by decide, rfl⟩, ⟨by decide, rfl⟩, rfl, offerThenTurns_undisturbing _, rfl⟩

theorem witness_CommandsEndOrPollForEver :
    FairRun (follow sendMoves withString) sendMoves ∧ (follow sendMoves withString 0).Inv :=
  ⟨sendRun_fair, witness_Inv none (m := [(0x0100, 0x41)]) (by decide)⟩

/-- A configured, idle block with no move but turns: the default turns change nothing. -/
theorem witness_RunsAreWhatStepDoes :
    IsRun (follow txMoves configured) txMoves ∧
    IsRun (fun _ => configured) (alternating configured.turn) ∧ configured.params.txClockRuns = true := by
  refine ⟨txRun_fair.run, ⟨fun n => ?_⟩, rfl⟩
  obtain ⟨g, hg⟩ := alternating_turn configured.turn n
  rw [hg]
  cases g <;> rfl

theorem witness_ReceiveReturnsFrameByte :
    configured.HostReady ∧ configured.b.rxen = true ∧ configured.c = 0x06 ∧ configured.b.ucsz2 = false ∧
      configured.rxbuf = none := by
  decide

/-- An RX before any INIT. -/
theorem witness_ReceiveBeforeInitWaits :
    ({ State.reset with ctl := { Controller.reset with state := .rxPoll } } : State).rxbuf = none ∧
    State.reset.b.rxen = false ∧ (∀ rest, State.reset.schedule ≠ .reset :: rest) ∧
    ∃ t, step { State.reset with ctl := { Controller.reset with state := .rxPoll } } = .next t :=
  ⟨rfl, rfl, (fun _ h => nomatch h), ⟨_, rfl⟩⟩

end Sys2Proof.Tests
end

section
/-! PROOFS. What no step changes: the parameters and the held bits, and CONTROL_B and CONTROL_C under an engine move. -/

namespace Sys2Proof.Machine

/-- The parameters (R6), and the bits that are held and that no write stores: RXCIE, TXCIE and UDRIE (R26), UCSZ2 and
RXB8 (R27), U2X (R22) and MPCM (R23). -/
def heldFields (s : State) : Params × Bool × Bool × Bool × Bool × Bool × Bool × Bool :=
  (s.params, s.b.rxcie, s.b.txcie, s.b.udrie, s.b.ucsz2, s.b.rxb8, s.a.u2x, s.a.mpcm)

theorem heldFields_eq_iff {s t : State} : heldFields t = heldFields s ↔
    t.params = s.params ∧ t.b.rxcie = s.b.rxcie ∧ t.b.txcie = s.b.txcie ∧ t.b.udrie = s.b.udrie ∧
      t.b.ucsz2 = s.b.ucsz2 ∧ t.b.rxb8 = s.b.rxb8 ∧ t.a.u2x = s.a.u2x ∧ t.a.mpcm = s.a.mpcm := by
  simp only [heldFields, Prod.mk.injEq]

/-- No move but reset changes a held field: none of them lies in the footprint of an instruction, of an agent's step,
of a frame or of a host read. -/
theorem perform_heldFields {m : Move} {s t : State} (hm : m ≠ .reset) (h : perform m s = .next t) :
    heldFields t = heldFields s := by
  cases perform_next h with
  | reset => exact absurd rfl hm
  | instr _ _ i => exact (congrArg heldFields (effect_footprint i s) :)
  | reserved => rfl
  | contended => rfl
  | elsewhere => rfl
  | readBusy => rfl
  | readResult => exact (congrArg heldFields (readResult_footprint s) :)
  | writeMem => rfl
  | frame b fe => exact (congrArg heldFields (receiverStep_footprint b fe s) :)
  | controller hl => exact (congrArg heldFields (controllerStep_footprint hl) :)
  | transmitter => exact (congrArg heldFields (transmitterStep_footprint s) :)

/-- No move changes the parameters (R6); a reset begins a new run with the same ones. -/
theorem perform_params {m : Move} {s t : State} (h : perform m s = .next t) : t.params = s.params := by
  by_cases hm : m = .reset
  · subst hm
    cases h
    rfl
  · exact (heldFields_eq_iff.mp (perform_heldFields hm h)).1

/-- The transmitter's turn changes neither CONTROL_B nor CONTROL_C (R100). -/
theorem perform_transmitter_controls {s t : State} (h : perform (.turn .transmitter) s = .next t) :
    t.b = s.b ∧ t.c = s.c := by
  obtain ⟨-, rfl⟩ := whenLive_next.mp h
  exact ⟨(congrArg State.b (transmitterStep_footprint s) :), (congrArg State.c (transmitterStep_footprint s) :)⟩

/-- An offered frame changes neither CONTROL_B nor CONTROL_C (R100). -/
theorem perform_frame_controls {b : Byte} {fe : Bool} {s t : State} (h : perform (.frame b fe) s = .next t) :
    t.b = s.b ∧ t.c = s.c := by
  obtain ⟨-, rfl⟩ := whenLive_next.mp h
  exact ⟨(congrArg State.b (receiverStep_footprint b fe s) :), (congrArg State.c (receiverStep_footprint b fe s) :)⟩

/-- Settles O53, from the footprints of the moves. -/
theorem heldBitsNeverWritten : Obligations.HeldBitsNeverWritten := by
  refine ⟨fun s t m h => ⟨perform_params h, fun hm => ?_⟩, fun s t m h hm => ?_⟩
  · exact (heldFields_eq_iff.mp (perform_heldFields hm h)).2
  · obtain rfl | ⟨b, fe, rfl⟩ := hm
    · exact perform_transmitter_controls h
    · exact perform_frame_controls h

end Sys2Proof.Machine
end

section
/-! PROOFS. The invariant of the block: one rule per named update, one lemma per instruction and agent, then every step
and every reachable state. A rule names only the clauses of `State.Inv` that its update touches. -/

namespace Sys2Proof.Machine

variable {s : State}

/-! What each named update must meet to keep the invariant. -/

theorem giveHost_inv (v : HostValue) (h : s.Inv) : (giveHost v s).Inv := { h with }

theorem draw_inv (h : s.Inv) : (draw s).2.Inv := { h with }

theorem setSchedule_inv (l : List Move) (h : s.Inv) : (setSchedule l s).Inv := { h with }

theorem setTurn_inv (g : Agent) (h : s.Inv) : (setTurn g s).Inv := { h with }

theorem setFormat_inv (c : Format) (h : s.Inv) : (setFormat c s).Inv := { h with }

theorem setBaudLow_inv (v : Byte) (h : s.Inv) : (setBaudLow v s).Inv := { h with }

theorem setBaudHigh_inv {v : Byte} (h : s.Inv) (hv : insideMask s.params v = true) : (setBaudHigh v s).Inv :=
  { h with baudHigh := hv }

/-- The one fault of a step is raised in a live state, where nothing is recorded yet (R131). -/
theorem raise_inv (f : FaultCode) (h : s.Inv) (hl : s.Live) : (raise f s).Inv :=
  { h with
    oneFault := by simp [hl.1]
    oneOutcome := .inr hl.2
    overrun := fun hd => (mem_insertFault f _ _).mpr (.inr (h.overrun hd))
    ssActReady := fun _ hf => absurd hf (insertFault_ne_nil f _) }

theorem refuse_inv (r : RefusalCode) (h : s.Inv) (hl : s.Live) : (refuse r s).Inv :=
  { h with oneOutcome := .inl hl.1 }

/-- An enable that is set stays set, so the buffers keep their enables (R79). -/
theorem storeEnables_inv {d : Byte} (h : s.Inv) (hr : s.b.rxen = true → d.getLsbD 4 = true)
    (ht : s.b.txen = true → d.getLsbD 3 = true) : (setEnables (storeEnables d s.b) s).Inv :=
  { h with
    txEnabled := fun hb => ht (h.txEnabled hb)
    rxEnabled := fun hb => hr (h.rxEnabled hb) }

/-- The transmit buffer is filled outside the act states, or in SS_ACT once a fault is recorded (R119). -/
theorem fillTxbuf_inv (d : Byte) (h : s.Inv) (ht : s.b.txen = true) (htx : s.ctl.state ≠ .txAct)
    (hss : s.ctl.state = .ssAct → s.faults ≠ []) : (setTxbuf (some d) s).Inv :=
  { h with
    txEnabled := fun _ => ht
    txActReady := fun hq => absurd hq htx
    ssActReady := fun hq hf => absurd hf (hss hq) }

/-- The received byte and its errors go together (R74), outside the act state that still needs the byte. -/
theorem takeRxbuf_inv (h : s.Inv) (hq : s.ctl.state ≠ .rxAct) :
    (setFlags (clearErrors s.a) (setRxbuf none s)).Inv :=
  { h with
    heldA := ⟨h.heldA.1, h.heldA.2.1, rfl⟩
    overrun := nofun
    rxEnabled := fun hb => absurd rfl hb
    frameError := nofun
    rxActReady := fun hq' => absurd hq' hq }

/-- A controller update must leave a loadable divisor and meet the promise of the state it enters: UDRE at the act of a
Transmit or SendString, RXC at the act of a Receive, a byte other than the terminator in a SendString. -/
theorem setCtl_inv {c : Controller} (h : s.Inv) (hdiv : insideMask s.params (highByte c.div) = true)
    (htx : c.state = .txAct ∨ c.state = .ssAct → s.txbuf = none) (hrx : c.state = .rxAct → rxc s = true)
    (hbyte : c.state = .ssPoll ∨ c.state = .ssAct → c.byte ≠ 0) : (setCtl c s).Inv :=
  { h with
    divLoadable := hdiv
    txActReady := fun hq => htx (.inl hq)
    ssActReady := fun hq _ => htx (.inr hq)
    rxActReady := hrx
    notTerminator := hbyte }

/-- The controller states that promise nothing about the buffers or the byte need only the divisor kept. -/
theorem setCtl_inv_of_no_promise {c : Controller} (h : s.Inv) (hdiv : insideMask s.params (highByte c.div) = true)
    (hq : c.state ∉ [.txAct, .rxAct, .ssPoll, .ssAct]) : (setCtl c s).Inv := by
  simp only [List.mem_cons, List.not_mem_nil, or_false, not_or] at hq
  obtain ⟨htx, hrx, hpoll, hss⟩ := hq
  exact setCtl_inv h hdiv (fun e => absurd e (not_or.mpr ⟨htx, hss⟩)) (fun e => absurd e hrx)
    fun e => absurd e (not_or.mpr ⟨hpoll, hss⟩)

theorem goto_inv_of_no_promise {q : CtlState} (h : s.Inv) (hq : q ∉ [.txAct, .rxAct, .ssPoll, .ssAct]) :
    (goto q s).Inv := setCtl_inv_of_no_promise h h.divLoadable hq

/-! Instructions. -/

theorem portRdData_inv (h : s.Inv) (hl : s.Live) (hq : s.ctl.state ≠ .rxAct) : (portRdData s).2.Inv := by
  cases hb : s.rxbuf with
  | none => rw [portRdData_empty hb]; exact raise_inv _ (draw_inv h) hl
  | some v => rw [portRdData_full hb]; exact takeRxbuf_inv h hq

theorem portWrData_inv (d : Byte) (h : s.Inv) (hr : s.HostReady) : (portWrData d s).Inv := by
  obtain ⟨_, e⟩ | ⟨_, _, e⟩ | ⟨ht, _, e⟩ := portWrData_cases d s <;> rw [e]
  · exact raise_inv _ h hr.1
  · exact raise_inv _ h hr.1
  · exact fillTxbuf_inv d h ht (by simp [hr.2]) (by simp [hr.2])

/-- A write that is not refused leaves no enable cleared (R79). -/
theorem controlBRefusal_none {d : Byte} {b : ControlB} (h : controlBRefusal d b = none) :
    (b.rxen = true → d.getLsbD 4 = true) ∧ (b.txen = true → d.getLsbD 3 = true) := by
  simp only [controlBRefusal] at h
  split_ifs at h with _ _ hdisable
  simpa only [Bool.or_eq_true, Bool.and_eq_true, Bool.not_eq_true', not_or, not_and, Bool.not_eq_false]
    using hdisable

theorem portWrControlB_inv (d : Byte) (h : s.Inv) (hl : s.Live) : (portWrControlB d s).Inv := by
  obtain ⟨r, _, e⟩ | ⟨hn, e⟩ := portWrControlB_cases d s <;> rw [e]
  · exact refuse_inv r h hl
  · exact storeEnables_inv h (controlBRefusal_none hn).1 (controlBRefusal_none hn).2

theorem portWrBaudHigh_inv (hi : BitVec 7) (h : s.Inv) (hl : s.Live) : (portWrBaudHigh hi s).Inv := by
  obtain ⟨hm, e⟩ | ⟨_, e⟩ := portWrBaudHigh_cases hi s <;> rw [e]
  · exact setBaudHigh_inv h hm
  · exact refuse_inv _ h hl

/-- A byte no greater than a valid mask has no bit outside it: the mask is a run of low ones (R30). -/
theorem insideMask_of_le {p : Params} (hp : p.Valid) {v : Byte} (h : v.toNat ≤ p.ubrrhMask.toNat) :
    insideMask p v = true := by
  obtain ⟨_, _, hm, _⟩ := hp
  have key : ∀ m ∈ [0x00#8, 0x01#8, 0x03#8, 0x07#8, 0x0F#8, 0x1F#8, 0x3F#8, 0x7F#8],
      ∀ x : Byte, x.toNat ≤ m.toNat → (x &&& ~~~m == 0) = true := by decide
  exact key _ hm v h

theorem highByte_toNat (d : Divisor) : (highByte d).toNat = d.toNat / 256 := by
  have := d.isLt
  simp only [highByte, BitVec.extractLsb'_toNat, Nat.shiftRight_eq_div_pow]
  omega

theorem divisor_le_divmax {p : Params} {b : Nat} {d : Divisor} (h : divisor p b = .ok d) : d.toNat ≤ divmax p := by
  simp only [divisor] at h
  split_ifs at h with _ _ hrange
  obtain rfl := Except.ok.inj h
  exact (BitVec.toNat_ofNat _ _ ▸ Nat.mod_le _ _).trans (Nat.not_lt.mp hrange)

/-- A divisor INIT computes is loadable (R101). -/
theorem divisor_loadable {p : Params} (hp : p.Valid) {b : Nat} {d : Divisor} (h : divisor p b = .ok d) :
    insideMask p (highByte d) = true := by
  have hmax : d.toNat ≤ p.ubrrhMask.toNat * 256 + 255 := divisor_le_divmax h
  refine insideMask_of_le hp ?_
  rw [highByte_toNat]
  omega

theorem acceptInit_inv (baud : Baud) (h : s.Inv) (hl : s.Live) : (acceptInit baud s).Inv := by
  unfold acceptInit
  split
  next f _ => exact raise_inv f h hl
  next d hd => exact setCtl_inv_of_no_promise h (divisor_loadable h.params hd) (by simp)

theorem effect_inv (i : Instr) (h : s.Inv) (hr : s.HostReady) : (effect i s).Inv := by
  cases i with
  | rdData => exact giveHost_inv _ (portRdData_inv h hr.1 (by simp [hr.2]))
  | rdStatusA => exact giveHost_inv _ h
  | rdControlB => exact giveHost_inv _ h
  | rdShared => exact giveHost_inv _ (draw_inv h)
  | rdBaudLow => exact giveHost_inv _ h
  | wrData d => exact portWrData_inv d h hr
  | wrStatusA d => exact refuse_inv _ h hr.1
  | wrControlB d => exact portWrControlB_inv d h hr.1
  | wrBaudHigh hi => exact portWrBaudHigh_inv hi h hr.1
  | wrControlC c => exact setFormat_inv c h
  | wrBaudLow d => exact setBaudLow_inv d h
  | init baud => exact acceptInit_inv baud h hr.1
  | tx byte => exact setCtl_inv_of_no_promise h h.divLoadable (by simp)
  | rx => exact setCtl_inv_of_no_promise h h.divLoadable (by simp)
  | sendstr addr => exact setCtl_inv_of_no_promise h h.divLoadable (by simp)

/-! The controller. -/

theorem stepInitWh_inv (h : s.Inv) (hl : s.Live) : (stepInitWh s).Inv := by
  rw [stepInitWh_eq hl h.params h.divLoadable]
  exact goto_inv_of_no_promise (setBaudHigh_inv h h.divLoadable) (by simp)

theorem stepInitWl_inv (h : s.Inv) (hl : s.Live) : (stepInitWl s).Inv := by
  rw [stepInitWl_eq hl]
  exact goto_inv_of_no_promise (setBaudLow_inv _ h) (by simp)

/-- INIT sets both enables (R108), so no buffer loses its enable. -/
theorem stepInitWb_inv (h : s.Inv) (hl : s.Live) : (stepInitWb s).Inv := by
  rw [stepInitWb_eq hl]
  exact goto_inv_of_no_promise (storeEnables_inv h (fun _ => rfl) fun _ => rfl) (by simp)

theorem stepInitWc_inv (h : s.Inv) (hl : s.Live) : (stepInitWc s).Inv := by
  rw [stepInitWc_eq hl]
  exact goto_inv_of_no_promise (setFormat_inv _ h) (by simp)

theorem udre_iff (s : State) : udre s = true ↔ s.txbuf = none := by simp [udre]

theorem stepTxPoll_inv (h : s.Inv) : (stepTxPoll s).Inv := by
  rw [stepTxPoll, stepPoll_eq, udreBit_statusA]
  split
  next hready => exact setCtl_inv h h.divLoadable (fun _ => (udre_iff s).mp hready) nofun nofun
  next => exact goto_inv_of_no_promise h (by simp)

theorem stepRxPoll_inv (h : s.Inv) : (stepRxPoll s).Inv := by
  rw [stepRxPoll, stepPoll_eq, rxcBit_statusA]
  split
  next hready => exact setCtl_inv h h.divLoadable nofun (fun _ => hready) nofun
  next => exact goto_inv_of_no_promise h (by simp)

theorem stepSsPoll_inv (h : s.Inv) (hq : s.ctl.state = .ssPoll) : (stepSsPoll s).Inv := by
  have hbyte : s.ctl.byte ≠ 0 := h.notTerminator (.inl hq)
  rw [stepSsPoll, stepPoll_eq, udreBit_statusA]
  split
  next hready => exact setCtl_inv h h.divLoadable (fun _ => (udre_iff s).mp hready) nofun fun _ => hbyte
  next => exact setCtl_inv h h.divLoadable nofun nofun fun _ => hbyte

theorem stepTxAct_inv (h : s.Inv) (hl : s.Live) : (stepTxAct s).Inv := by
  obtain ⟨_, e⟩ | ⟨_, _, e⟩ | ⟨ht, _, e⟩ := stepTxAct_cases hl <;> rw [e]
  · exact raise_inv _ h hl
  · exact raise_inv _ h hl
  · exact fillTxbuf_inv s.ctl.byte (goto_inv_of_no_promise (q := .idle) h (by simp)) ht nofun nofun

theorem stepRxAct_inv (h : s.Inv) (hl : s.Live) : (stepRxAct s).Inv := by
  obtain ⟨_, e⟩ | ⟨v, _, e⟩ := stepRxAct_cases hl <;> rw [e]
  · exact raise_inv _ (draw_inv h) hl
  · have hidle : (setCtl { s.ctl with result := some v, state := .idle } s).Inv :=
      setCtl_inv_of_no_promise h h.divLoadable (by simp)
    exact takeRxbuf_inv hidle nofun

theorem stepSsFetch_inv (h : s.Inv) : (stepSsFetch s).Inv := by
  unfold stepSsFetch
  split
  next => exact goto_inv_of_no_promise h (by simp)
  next hbyte => exact setCtl_inv h h.divLoadable nofun nofun fun _ => hbyte

/-- F9 is raised after the write (R119), but the two touch different fields: the invariant is followed through the state
that has the fault and not yet the byte. -/
theorem stepSsAct_inv (h : s.Inv) (hl : s.Live) (hq : s.ctl.state = .ssAct) : (stepSsAct s).Inv := by
  obtain ⟨_, e⟩ | ⟨_, _, e⟩ | ⟨ht, _, _, e⟩ | ⟨ht, _, _, e⟩ := stepSsAct_cases hl <;> rw [e]
  · exact raise_inv _ h hl
  · exact raise_inv _ h hl
  · exact fillTxbuf_inv s.ctl.byte (raise_inv .stringWrap h hl) ht (by simp [hq]) fun _ => insertFault_ne_nil _ _
  · have hfetch : (setCtl { s.ctl with addr := s.ctl.addr + 1, state := .ssFetch } s).Inv :=
      setCtl_inv_of_no_promise h h.divLoadable (by simp)
    exact fillTxbuf_inv s.ctl.byte hfetch ht nofun nofun

theorem controllerStep_inv (h : s.Inv) (hl : s.Live) : (controllerStep s).Inv := by
  unfold controllerStep
  cases hq : s.ctl.state with
  | idle => exact h
  | initWh => exact stepInitWh_inv h hl
  | initWl => exact stepInitWl_inv h hl
  | initWb => exact stepInitWb_inv h hl
  | initWc => exact stepInitWc_inv h hl
  | txPoll => exact stepTxPoll_inv h
  | txAct => exact stepTxAct_inv h hl
  | rxPoll => exact stepRxPoll_inv h
  | rxAct => exact stepRxAct_inv h hl
  | ssFetch => exact stepSsFetch_inv h
  | ssPoll => exact stepSsPoll_inv h hq
  | ssAct => exact stepSsAct_inv h hl hq

/-! The serial engine, and the host's own moves. -/

theorem highByte_ubrr (s : State) : highByte (ubrr s) = s.ubrrh := by
  simp only [highByte, ubrr]
  exact BitVec.extractLsb'_append_eq_left

/-- TX_LOAD latches the admitted format and the divisor, which lies inside the mask (R91). -/
theorem loadTxshift_inv (d : Byte) (h : s.Inv) (ht : s.b.txen = true) (ha : admitted s = true) :
    (setTxbuf none (setTxshift (some ⟨d, ubrr s, s.c⟩) s)).Inv :=
  { h with
    txEnabled := fun _ => ht
    txActReady := fun _ => rfl
    ssActReady := fun _ _ => rfl
    shiftOk := by
      rintro e ⟨⟩
      exact ⟨((admitted_iff s).mp ha).1, (highByte_ubrr s).symm ▸ h.baudHigh⟩ }

theorem completeTx_inv (h : s.Inv) : (completeTx s).Inv := by
  unfold completeTx
  split
  next => exact { h with }
  next => exact h

/-- TX_DONE moves the shift stage's event to the line (R92). -/
theorem emitTxshift_inv {e : TxEvent} (h : s.Inv) (he : s.txshift = some e) : (setTxshift none (emit e s)).Inv :=
  { h with
    txEnabled := fun hb => h.txEnabled (hb.imp_right fun hs => absurd rfl hs)
    shiftOk := nofun
    lineOk := by
      intro e' hmem
      obtain hmem | rfl := List.mem_append.mp hmem |>.imp_right List.mem_singleton.mp
      · exact h.lineOk e' hmem
      · exact h.shiftOk e' he }

theorem transmitterStep_inv (h : s.Inv) (hl : s.Live) : (transmitterStep s).Inv := by
  obtain ⟨_, he, _, e⟩ | ⟨d, _, ht, _, ha, e⟩ | ⟨_, e⟩ | ⟨_, _, e⟩ := transmitterStep_cases s <;> rw [e]
  · exact completeTx_inv (emitTxshift_inv h he)
  · exact loadTxshift_inv d h ht ha
  · exact refuse_inv _ h hl
  · exact h

theorem acceptFrame_inv (b : Byte) (fe : Bool) (h : s.Inv) (hr : s.b.rxen = true) :
    (setFlags (frameErrors fe s.a) (setRxbuf (some b) s)).Inv :=
  { h with
    heldA := ⟨h.heldA.1, h.heldA.2.1, rfl⟩
    rxEnabled := fun _ => hr
    frameError := fun _ => rfl
    rxActReady := fun _ => rfl }

/-- DOR comes with F6 (R94), so the state between the two updates does not meet the invariant and the state after both
does. -/
theorem overrun_inv (h : s.Inv) (hl : s.Live) : (raise .rxOverrun (setFlags { s.a with dor := true } s)).Inv :=
  { raise_inv .rxOverrun h hl with overrun := fun _ => (mem_insertFault _ _ _).mpr (.inl rfl) }

theorem receiverStep_inv (b : Byte) (fe : Bool) (h : s.Inv) (hl : s.Live) : (receiverStep b fe s).Inv := by
  obtain ⟨_, e⟩ | ⟨_, _, e⟩ | ⟨hr, _, _, e⟩ | ⟨_, _, _, _, e⟩ := receiverStep_cases b fe s <;> rw [e]
  · exact h
  · exact refuse_inv _ h hl
  · exact acceptFrame_inv b fe h hr
  · exact overrun_inv h hl

theorem readResult_inv (h : s.Inv) (hl : s.Live) : (readResult s).Inv := by
  unfold readResult
  split
  next => exact giveHost_inv _ h
  next => exact giveHost_inv _ (raise_inv _ (draw_inv h) hl)

theorem storeByte_inv (a : Addr) (b : Byte) (h : s.Inv) : (storeByte a b s).Inv :=
  { h with memory := memPut_wf s.mem a b h.memory }

/-! Reset, moves, steps and runs. -/

theorem launch_inv {p : Params} {mem : Memory} (hp : p.Valid) (hm : Memory.wf mem) : (State.launch p mem).Inv where
  params := hp
  memory := hm
  oneFault := Nat.zero_le _
  oneOutcome := .inl rfl
  heldB := ⟨rfl, rfl, rfl, rfl, rfl⟩
  heldA := ⟨rfl, rfl, rfl⟩
  overrun := nofun
  baudHigh := beq_iff_eq.mpr hp.2.2.2
  divLoadable := by simp [State.launch, Controller.reset, insideMask, highByte]
  txEnabled := fun hb => hb.elim (absurd rfl) (absurd rfl)
  rxEnabled := fun hb => absurd rfl hb
  frameError := nofun
  txActReady := fun _ => rfl
  ssActReady := fun _ _ => rfl
  rxActReady := nofun
  notTerminator := nofun
  shiftOk := nofun
  lineOk := nofun

theorem resetBlock_inv (h : s.Inv) : (resetBlock s).Inv := { launch_inv h.params h.memory with }

theorem perform_inv {m : Move} {t : State} (h : s.Inv) (hp : perform m s = .next t) : t.Inv := by
  cases perform_next hp with
  | reset => exact resetBlock_inv h
  | instr _ _ i hr => exact effect_inv i h hr
  | reserved _ _ r hr => exact refuse_inv r h hr.1
  | contended _ _ f hl => exact raise_inv f h hl
  | elsewhere => exact h
  | readBusy => exact giveHost_inv _ h
  | readResult hl => exact readResult_inv h hl
  | writeMem a b => exact storeByte_inv a b h
  | frame b fe hl => exact receiverStep_inv b fe h hl
  | controller hl => exact controllerStep_inv h hl
  | transmitter hl => exact transmitterStep_inv h hl

theorem defaultTurn_inv (h : s.Inv) (hl : s.Live) : (defaultTurn s).Inv := by
  unfold defaultTurn
  split
  next => exact setTurn_inv _ (controllerStep_inv h hl)
  next =>
    split
    next => exact setTurn_inv _ (transmitterStep_inv h hl)
    next => exact setTurn_inv _ h

theorem step_inv {t : State} (h : s.Inv) (hs : step s = .next t) : t.Inv := by
  obtain ⟨m, rest, _, hp⟩ | ⟨_, hl, rfl⟩ := step_next hs
  · exact perform_inv (setSchedule_inv rest h) hp
  · exact defaultTurn_inv h hl

theorem State.Reachable.inv (h : s.Reachable) : s.Inv := by
  induction h with
  | launch p mem moves hp hm => exact setSchedule_inv moves (launch_inv hp hm)
  | step s t _ hs ih => exact step_inv ih hs

/-- Settles O44, move by move: each update of the state keeps the invariant where the model makes it. -/
theorem stepKeepsInvariant : Obligations.StepKeepsInvariant := fun _ _ => step_inv

/-- Settles O43: reset is a launch with the default parameters and no caller memory listed. -/
theorem resetMeetsInvariant : Obligations.ResetMeetsInvariant := launch_inv (by decide) memory_nil_wf

/-- Settles O45, from the invariant of every reachable state; in a live one F6 is not recorded, so DOR is 0. -/
theorem reachableStatesMeetR37 : Obligations.ReachableStatesMeetR37 := by
  intro s hs hl
  have h : s.Inv := hs.inv
  have hudre : (statusAByte s).getLsbD 5 = udre s := udreBit_statusA s
  have hrxc : (statusAByte s).getLsbD 7 = rxc s := rxcBit_statusA s
  have hrxc_iff : rxc s = true ↔ s.rxbuf ≠ none := Option.isSome_iff_ne_none
  have hdor : s.a.dor = false := by
    by_contra hd
    have hmem := h.overrun (eq_true_of_ne_false hd)
    simp [hl.1] at hmem
  obtain ⟨hrxcie, htxcie, hudrie, hucsz2, hrxb8⟩ := h.heldB
  obtain ⟨hu2x, hmpcm, hpe⟩ := h.heldA
  exact ⟨hudre ▸ udre_iff s, hrxc ▸ hrxc_iff, hrxcie, htxcie, hudrie, hucsz2, hrxb8, hu2x, hmpcm, hpe, hdor,
    beq_iff_eq.mp h.baudHigh, h.txEnabled, h.rxEnabled, fun hfe => hrxc_iff.mp (h.frameError hfe)⟩

end Sys2Proof.Machine
end

section
/-! PROOFS. The observable stages of the serial line: what a move other than reset does to TXC, the shift stage and the
line history, and how the receive buffer is filled. -/

namespace Sys2Proof.Machine

variable {s t : State} {m : Move}

/-- TXC, the shift stage and the line history: what only the transmitter's turn moves on (R17, R31, R35). -/
def lineFields (s : State) : Bool × Option TxEvent × List TxEvent := (s.a.txc, s.txshift, s.txline)

theorem lineFields_eq_iff : lineFields t = lineFields s ↔
    t.a.txc = s.a.txc ∧ t.txshift = s.txshift ∧ t.txline = s.txline := by
  simp only [lineFields, Prod.mk.injEq]

/-- Outside the transmitter's turn and reset, none of them lies in the footprint of a move. -/
theorem perform_lineFields (hm : m ≠ .reset) (ht : m ≠ .turn .transmitter) (h : perform m s = .next t) :
    lineFields t = lineFields s := by
  cases perform_next h with
  | reset => exact absurd rfl hm
  | transmitter => exact absurd rfl ht
  | instr _ _ i => exact (congrArg lineFields (effect_footprint i s) :)
  | reserved => rfl
  | contended => rfl
  | elsewhere => rfl
  | readBusy => rfl
  | readResult => exact (congrArg lineFields (readResult_footprint s) :)
  | writeMem => rfl
  | frame b fe => exact (congrArg lineFields (receiverStep_footprint b fe s) :)
  | controller hl => exact (congrArg lineFields (controllerStep_footprint hl) :)

@[simp] theorem completeTx_txshift (s : State) : (completeTx s).txshift = s.txshift := by
  unfold completeTx; split <;> rfl

@[simp] theorem completeTx_txline (s : State) : (completeTx s).txline = s.txline := by
  unfold completeTx; split <;> rfl

/-- TX_DONE never clears TXC (R17). -/
theorem completeTx_txc (h : s.a.txc = true) : (completeTx s).a.txc = true := by
  unfold completeTx
  split
  next => rfl
  next => exact h

/-- The transmitter's step keeps TXC once it is 1. -/
theorem transmitterStep_txc (h : s.a.txc = true) : (transmitterStep s).a.txc = true := by
  obtain ⟨e, _, _, eq⟩ | ⟨_, _, _, _, _, eq⟩ | ⟨_, eq⟩ | ⟨_, _, eq⟩ := transmitterStep_cases s <;> rw [eq]
  · exact completeTx_txc (s := setTxshift none (emit e s)) h
  · exact h
  · exact h
  · exact h

/-- The transmitter's step puts the shift stage's event on the line, or leaves the line and any event in the stage. -/
theorem transmitterStep_line (s : State) :
    (∃ e, s.txshift = some e ∧ (transmitterStep s).txshift = none ∧ (transmitterStep s).txline = s.txline ++ [e]) ∨
    ((transmitterStep s).txline = s.txline ∧ ∀ e, s.txshift = some e → (transmitterStep s).txshift = some e) := by
  obtain ⟨e, he, _, eq⟩ | ⟨_, hn, _, _, _, eq⟩ | ⟨_, eq⟩ | ⟨_, _, eq⟩ := transmitterStep_cases s <;> rw [eq]
  · exact .inl ⟨e, he, by simp, by simp⟩
  · exact .inr ⟨rfl, by simp [hn]⟩
  · exact .inr ⟨rfl, fun _ => id⟩
  · exact .inr ⟨rfl, fun _ => id⟩

/-- The same of every move but reset; only the transmitter's turn puts an event on the line. -/
theorem perform_line (hm : m ≠ .reset) (h : perform m s = .next t) :
    (m = .turn .transmitter ∧ ∃ e, s.txshift = some e ∧ t.txshift = none ∧ t.txline = s.txline ++ [e]) ∨
    (t.txline = s.txline ∧ ∀ e, s.txshift = some e → t.txshift = some e) := by
  by_cases ht : m = .turn .transmitter
  · subst ht
    obtain ⟨-, rfl⟩ := whenLive_next.mp h
    exact (transmitterStep_line s).imp_left (⟨rfl, ·⟩)
  · obtain ⟨-, hshift, hline⟩ := lineFields_eq_iff.mp (perform_lineFields hm ht h)
    exact .inr ⟨hline, fun e he => hshift.trans he⟩

/-- Settles O49: no move but the transmitter's turn and reset reaches TXC, and the turn only sets it. -/
theorem txcClearedOnlyByReset : Obligations.TxcClearedOnlyByReset := by
  intro s t m htxc h hm
  by_cases ht : m = .turn .transmitter
  · subst ht
    obtain ⟨-, rfl⟩ := whenLive_next.mp h
    exact transmitterStep_txc htxc
  · exact (lineFields_eq_iff.mp (perform_lineFields hm ht h)).1.trans htxc

/-- Settles O50, from what a move does to the line. -/
theorem lineHistoryGrows : Obligations.LineHistoryGrows := by
  intro s t m h hm
  obtain ⟨ht, e, he, -, hline⟩ | ⟨hline, -⟩ := perform_line hm h
  · exact .inr ⟨ht, e, he, hline⟩
  · exact .inl hline

/-- Settles O51, from what a move does to the line: the event that leaves the stage is the one it held. -/
theorem shiftStageKeepsItsEvent : Obligations.ShiftStageKeepsItsEvent := by
  intro s t m e he h hm
  obtain ⟨ht, e', he', hshift, hline⟩ | ⟨-, hkeep⟩ := perform_line hm h
  · obtain rfl : e = e' := Option.some.inj (he.symm.trans he')
    exact .inr ⟨ht, hshift, hline⟩
  · exact .inl (hkeep e he)

/-- An instruction empties the receive buffer or leaves it. -/
theorem effect_rxbuf (i : Instr) (s : State) : (effect i s).rxbuf = none ∨ (effect i s).rxbuf = s.rxbuf := by
  cases i with
  | rdData =>
    cases hb : s.rxbuf with
    | none => exact .inl (by simp [effect, portRdData_empty hb, hb])
    | some v => exact .inl (by simp [effect, portRdData_full hb])
  | wrData d => obtain ⟨_, e⟩ | ⟨_, _, e⟩ | ⟨_, _, e⟩ := portWrData_cases d s <;> exact .inr (congrArg State.rxbuf e :)
  | wrControlB d =>
    obtain ⟨_, _, e⟩ | ⟨_, e⟩ := portWrControlB_cases d s <;> exact .inr (congrArg State.rxbuf e :)
  | wrBaudHigh hi => obtain ⟨_, e⟩ | ⟨_, e⟩ := portWrBaudHigh_cases hi s <;> exact .inr (congrArg State.rxbuf e :)
  | init baud => exact .inr (by simp only [effect, acceptInit]; split <;> rfl)
  | rdStatusA => exact .inr rfl
  | rdControlB => exact .inr rfl
  | rdShared => exact .inr rfl
  | rdBaudLow => exact .inr rfl
  | wrStatusA d => exact .inr rfl
  | wrControlC c => exact .inr rfl
  | wrBaudLow d => exact .inr rfl
  | tx byte => exact .inr rfl
  | rx => exact .inr rfl
  | sendstr addr => exact .inr rfl

/-- The controller empties the receive buffer or leaves it. -/
theorem controllerStep_rxbuf (hl : s.Live) :
    (controllerStep s).rxbuf = none ∨ (controllerStep s).rxbuf = s.rxbuf := by
  unfold controllerStep
  cases s.ctl.state with
  | idle => exact .inr rfl
  | initWh => obtain e | e | e := stepInitWh_cases hl <;> exact .inr (congrArg State.rxbuf e :)
  | initWl => exact .inr (congrArg State.rxbuf (stepInitWl_eq hl) :)
  | initWb => exact .inr (congrArg State.rxbuf (stepInitWb_eq hl) :)
  | initWc => exact .inr (congrArg State.rxbuf (stepInitWc_eq hl) :)
  | txPoll => exact .inr rfl
  | txAct =>
    obtain ⟨_, e⟩ | ⟨_, _, e⟩ | ⟨_, _, e⟩ := stepTxAct_cases hl <;> exact .inr (congrArg State.rxbuf e :)
  | rxPoll => exact .inr rfl
  | rxAct =>
    obtain ⟨_, e⟩ | ⟨_, _, e⟩ := stepRxAct_cases hl
    · exact .inr (congrArg State.rxbuf e :)
    · exact .inl (congrArg State.rxbuf e :)
  | ssFetch => exact .inr (by simp only [stepSsFetch]; split <;> rfl)
  | ssPoll => exact .inr rfl
  | ssAct =>
    obtain ⟨_, e⟩ | ⟨_, _, e⟩ | ⟨_, _, _, e⟩ | ⟨_, _, _, e⟩ := stepSsAct_cases hl <;>
      exact .inr (congrArg State.rxbuf e :)

/-- An offered frame fills the receive buffer with its own byte or leaves it (R94). -/
theorem receiverStep_rxbuf (b : Byte) (fe : Bool) (s : State) :
    (receiverStep b fe s).rxbuf = some b ∨ (receiverStep b fe s).rxbuf = s.rxbuf := by
  obtain ⟨_, e⟩ | ⟨_, _, e⟩ | ⟨_, _, _, e⟩ | ⟨_, _, _, _, e⟩ := receiverStep_cases b fe s
  · exact .inr (congrArg State.rxbuf e :)
  · exact .inr (congrArg State.rxbuf e :)
  · exact .inl (congrArg State.rxbuf e :)
  · exact .inr (congrArg State.rxbuf e :)

/-- Everything a move can do to the receive buffer. -/
theorem perform_rxbuf (h : perform m s = .next t) :
    (∃ b fe, m = .frame b fe ∧ t.rxbuf = some b) ∨ t.rxbuf = none ∨ t.rxbuf = s.rxbuf := by
  cases perform_next h with
  | reset => exact .inr (.inl rfl)
  | instr _ _ i => exact .inr (effect_rxbuf i s)
  | reserved => exact .inr (.inr rfl)
  | contended => exact .inr (.inr rfl)
  | elsewhere => exact .inr (.inr rfl)
  | readBusy => exact .inr (.inr rfl)
  | readResult => exact .inr (.inr (congrArg State.rxbuf (readResult_footprint s) :))
  | writeMem => exact .inr (.inr rfl)
  | frame b fe => exact (receiverStep_rxbuf b fe s).imp (fun hb => ⟨b, fe, rfl, hb⟩) .inr
  | controller hl => exact .inr (controllerStep_rxbuf hl)
  | transmitter => exact .inr (.inr (congrArg State.rxbuf (transmitterStep_footprint s) :))

/-- Settles O52: of everything a move does to the receive buffer, only a frame puts a byte there. -/
theorem receivedByteComesFromAFrame : Obligations.ReceivedByteComesFromAFrame := by
  intro s t m v hs h ht
  obtain ⟨b, fe, rfl, hb⟩ | hnone | hsame := perform_rxbuf h
  · obtain rfl : b = v := Option.some.inj (hb.symm.trans ht)
    exact ⟨fe, rfl⟩
  · exact absurd (hnone.symm.trans ht) nofun
  · exact absurd (hsame.symm.trans ht) hs

end Sys2Proof.Machine
end

section
/-! PROOFS. Platform accesses (R42): an access at the address of a location is that location's transaction. -/

namespace Sys2Proof.Machine

variable {s : State} {n : Nat}

/-- `reg_addr` as a function of the location (R6). -/
def addressOf (p : Params) : RegIndex → Nat
  | .data => p.regAddr.data
  | .statusA => p.regAddr.statusA
  | .controlB => p.regAddr.controlB
  | .shared => p.regAddr.shared
  | .baudLow => p.regAddr.baudLow

/-- The address of a location names that location, because `reg_addr` is injective. -/
theorem locationAt_addressOf {p : Params} (hp : p.Valid) (r : RegIndex) : locationAt p (addressOf p r) = some r := by
  obtain ⟨_, hinj, _⟩ := hp
  simp only [List.nodup_cons, List.mem_cons, List.not_mem_nil, or_false, not_or] at hinj
  obtain ⟨⟨hda, hdb, hds, hdl⟩, ⟨hab, has, hal⟩, ⟨hbs, hbl⟩, hsl, _⟩ := hinj
  cases r with
  | data => simp [locationAt, addressOf]
  | statusA => simp [locationAt, addressOf, Ne.symm hda]
  | controlB => simp [locationAt, addressOf, Ne.symm hdb, Ne.symm hab]
  | shared => simp [locationAt, addressOf, Ne.symm hds, Ne.symm has, Ne.symm hbs]
  | baudLow => simp [locationAt, addressOf, Ne.symm hdl, Ne.symm hal, Ne.symm hbl, Ne.symm hsl]

theorem perform_read (h : s.params.Valid) (r : RegIndex) :
    perform (.access (addressOf s.params r) none) s = exec (readInstr r) s := by
  simp only [perform, platformAccess, locationAt_addressOf h, accessWord, offerWord, decode, decodeBus_read]

theorem perform_write (h : s.params.Valid) (r : RegIndex) (d : Byte) :
    perform (.access (addressOf s.params r) (some d)) s = exec (writeInstr r d) s := by
  simp only [perform, platformAccess, locationAt_addressOf h, accessWord, offerWord, decode, decodeBus_write]

/-- An access at none of the five addresses does not reach the block. -/
theorem perform_elsewhere (hl : s.Live) (hdata : n ≠ s.params.regAddr.data) (hstatusA : n ≠ s.params.regAddr.statusA)
    (hcontrolB : n ≠ s.params.regAddr.controlB) (hshared : n ≠ s.params.regAddr.shared)
    (hbaudLow : n ≠ s.params.regAddr.baudLow) (w : Option Byte) : perform (.access n w) s = .next s := by
  simp only [perform, platformAccess, locationAt, if_neg hdata, if_neg hstatusA, if_neg hcontrolB, if_neg hshared,
    if_neg hbaudLow, whenLive_live hl]

/-- Settles O23, location by location; at the shared one the selector bit of the byte picks the register. -/
theorem platformAccessReachesRegister : Obligations.PlatformAccessReachesRegister := by
  intro s hv hl
  refine ⟨fun d => ⟨perform_read hv .data, perform_write hv .data d⟩,
    fun d => ⟨perform_read hv .statusA, perform_write hv .statusA d⟩,
    fun d => ⟨perform_read hv .controlB, perform_write hv .controlB d⟩,
    fun p => ⟨perform_read hv .shared, ?_, ?_⟩,
    fun d => ⟨perform_read hv .baudLow, perform_write hv .baudLow d⟩,
    fun n w hdata hstatusA hcontrolB hshared hbaudLow =>
      perform_elsewhere hl hdata hstatusA hcontrolB hshared hbaudLow w⟩
  · exact writeInstr_shared_high p ▸ perform_write hv .shared (0#1 ++ p)
  · exact writeInstr_shared_format p ▸ perform_write hv .shared (1#1 ++ p)

end Sys2Proof.Machine
end

section
/-! PROOFS. What a step is (R52, R73): its scheduled move, or a default turn; and runs as the steps of a schedule (R132,
R154). -/

namespace Sys2Proof.Machine

variable {s t : State}

theorem step_scheduled {m : Move} {rest : List Move} (h : s.schedule = m :: rest) :
    step s = perform m (setSchedule rest s) := by
  simp only [step, h]

theorem step_unscheduled (hl : s.Live) (h : s.schedule = []) : step s = .next (defaultTurn s) := by
  simp only [step, h, whenLive_live hl]

theorem offerWord_decoded {w : PortWord} {i : Instr} (h : decode w = .ok i) (s : State) : offerWord w s = exec i s := by
  simp only [offerWord, h]

theorem decodeTableWord_eq_some {nbits w : Nat} {i : Instr} :
    decodeTableWord nbits w = some i ↔ decode (tableWord nbits w) = .ok i := by
  unfold decodeTableWord
  cases decode (tableWord nbits w) with
  | ok j => simp
  | error r => simp

/-- Settles O7: a scheduled move is performed as it stands, and a default turn is the named agent's own move. -/
theorem stepRunsDecodedInstruction : Obligations.StepRunsDecodedInstruction := by
  refine ⟨fun s m rest h => step_scheduled h, fun s w i rest h hi => ?_, fun s nbits w i hi => ?_,
    fun s hl h => ⟨fun ht => ?_, fun ht hc => ?_, fun ht hc => ?_⟩⟩
  · exact (step_scheduled h).trans (offerWord_decoded hi _)
  · exact offerWord_decoded (decodeTableWord_eq_some.mp hi) s
  · exact ⟨agentStep .controller s, whenLive_live hl _, by rw [step_unscheduled hl h, defaultTurn, ht]; rfl⟩
  · exact ⟨agentStep .transmitter s, whenLive_live hl _, by rw [step_unscheduled hl h, defaultTurn, ht, hc]; rfl⟩
  · rw [step_unscheduled hl h, defaultTurn, ht, hc]; rfl

/-! Runs. -/

theorem core_run_succ (n : Nat) (h : step s = .next t) : core.run (n + 1) s = core.run n t := by
  simp only [Host.Core.run, show core.step s = .next t from h]

/-- A run without its first move is a run. -/
theorem IsRun.tail {states : Nat → State} {moves : Nat → Move} (h : IsRun states moves) :
    IsRun (fun n => states (n + 1)) fun n => moves (n + 1) :=
  ⟨fun n => h.next (n + 1)⟩

/-- The first `n` moves of a run, scheduled, are its first `n` steps. -/
theorem IsRun.core_run {states : Nat → State} {moves : Nat → Move} (h : IsRun states moves) (n : Nat) :
    core.run n (setSchedule ((List.range n).map moves) (states 0)) = .next (setSchedule [] (states n)) := by
  induction n generalizing states moves with
  | zero => rfl
  | succ n ih =>
    have hrange : (List.range (n + 1)).map moves = moves 0 :: (List.range n).map fun k => moves (k + 1) := by
      simp [List.range_succ_eq_map, Function.comp_def]
    have hstep : step (setSchedule ((List.range (n + 1)).map moves) (states 0)) =
        .next (setSchedule ((List.range n).map fun k => moves (k + 1)) (states 1)) :=
      (step_scheduled hrange).trans (perform_setSchedule (s := states 0) (t := states 1) _ (h.next 0))
    rw [core_run_succ n hstep]
    exact ih h.tail

/-- From any point on, each agent has a turn among the default turns. -/
theorem alternating_recurs (first g : Agent) (n : Nat) : ∃ m, n ≤ m ∧ alternating first m = .turn g := by
  induction n generalizing first with
  | zero =>
    cases first <;> cases g
    · exact ⟨0, le_rfl, rfl⟩
    · exact ⟨1, Nat.zero_le 1, rfl⟩
    · exact ⟨1, Nat.zero_le 1, rfl⟩
    · exact ⟨0, le_rfl, rfl⟩
  | succ n ih =>
    obtain ⟨m, hm, hg⟩ := ih (otherAgent first)
    exact ⟨m + 1, Nat.succ_le_succ hm, hg⟩

theorem weaklyFair_alternating (k : FairStep) (states : Nat → State) (first : Agent) :
    WeaklyFair k states (alternating first) := fun n _ => alternating_recurs first k.agent n

@[simp] theorem place_turn (l : List Move) (g : Agent) (s : State) : (place l g s).turn = g := rfl

/-- With nothing scheduled and the transmit clock running, a step is a turn of the agent named, and names the other. -/
theorem step_turn {g : Agent} (hc : s.params.txClockRuns = true) (h : perform (.turn g) s = .next t) :
    step (place [] g s) = .next (place [] (otherAgent g) t) := by
  obtain ⟨hl, rfl⟩ := whenLive_next.mp h
  rw [step_unscheduled (s := place [] g s) hl rfl]
  cases g with
  | controller => simp only [defaultTurn, place_turn, agentStep_place]; rfl
  | transmitter => simp only [defaultTurn, place_turn, place_params, hc, agentStep_place]; rfl

/-- A run of alternating turns is the steps with nothing scheduled, where the transmit clock runs. -/
theorem IsRun.core_run_alternating {states : Nat → State} {first : Agent} (h : IsRun states (alternating first))
    (hc : (states 0).params.txClockRuns = true) (n : Nat) :
    ∃ g, core.run n (place [] first (states 0)) = .next (place [] g (states n)) := by
  induction n generalizing states first with
  | zero => exact ⟨first, rfl⟩
  | succ n ih =>
    have hfirst : perform (.turn first) (states 0) = .next (states 1) := h.next 0
    rw [core_run_succ n (step_turn hc hfirst)]
    exact ih (first := otherAgent first) h.tail (perform_params hfirst ▸ hc)

/-- Settles O59, by induction on the length of the part of the run, from its first move. -/
theorem runsAreWhatStepDoes : Obligations.RunsAreWhatStepDoes := by
  refine ⟨fun states moves n h => h.core_run n, fun states n h hc => ⟨⟨h, ?_, fun _ => ⟨?_, ?_⟩⟩, ?_⟩⟩
  · exact weaklyFair_alternating .controller states _
  · exact weaklyFair_alternating .txLoad states _
  · exact weaklyFair_alternating .txDone states _
  · exact h.core_run_alternating hc n

end Sys2Proof.Machine
end

section
/-! PROOFS. The frame of the 11 register-port transactions (R50, R73): what the effect of each may change, and the one
thing a busy port does instead, a raised fault. -/

namespace Sys2Proof.Machine

variable {s t : State}

/-- What an instruction that answers a next state leaves: its effect, or a raised fault (R88, R102). -/
theorem exec_effect_or_raise {i : Instr} (h : exec i s = .next t) : t = effect i s ∨ ∃ f, t = raise f s := by
  obtain ⟨-, ⟨-, ht⟩ | ⟨-, ht⟩⟩ := exec_next h
  · exact .inl ht
  · exact .inr ⟨_, ht⟩

theorem effect_mem (i : Instr) (s : State) : (effect i s).mem = s.mem := (congrArg State.mem (effect_footprint i s) :)

/-- No instruction changes a byte of caller memory (R50). -/
theorem exec_memRead {i : Instr} (h : exec i s = .next t) (a : Addr) : memRead t a = memRead s a := by
  obtain rfl | ⟨f, rfl⟩ := exec_effect_or_raise h
  · exact congrArg (memGet · a.toNat) (effect_mem i s)
  · rfl

/-- RD_DATA takes the received byte and clears the error flags, or draws a value and raises F5 (R74). -/
theorem effect_rdData_cases (s : State) :
    (∃ v, effect .rdData s = giveHost (.read v) (setFlags (clearErrors s.a) (setRxbuf none s))) ∨
    (∃ v, effect .rdData s = giveHost (.read v) (raise .rxEmptyRead (draw s).2)) := by
  cases hb : s.rxbuf with
  | none => exact .inr ⟨_, by rw [effect, portRdData_empty hb]⟩
  | some v => exact .inl ⟨v, by rw [effect, portRdData_full hb]⟩

/-- A read of STATUS_A, CONTROL_B or BAUD_LOW gives the host a value and does nothing else (R76, R78, R83). -/
theorem effect_pure_read {i : Instr} (hi : i = .rdStatusA ∨ i = .rdControlB ∨ i = .rdBaudLow) (s : State) :
    ∃ v, effect i s = giveHost (.read v) s := by
  obtain rfl | rfl | rfl := hi
  · exact ⟨statusAByte s, rfl⟩
  · exact ⟨controlBByte s.b, rfl⟩
  · exact ⟨s.ubrrl, rfl⟩

/-! The frame of each transaction, its effect's frame and the fault's in one. -/

/-- The host has received at most one value of a register read, after those it had (R73). -/
def AtMostOneRead (s t : State) : Prop := t.returned = s.returned ∨ ∃ v, t.returned = s.returned ++ [.read v]

theorem rdData_frame (h : exec .rdData s = .next t) :
    t = { s with rxbuf := t.rxbuf, a := { s.a with fe := t.a.fe, pe := t.a.pe, dor := t.a.dor }, faults := t.faults,
                 returned := t.returned, draws := t.draws } ∧
      AtMostOneRead s t := by
  obtain rfl | ⟨f, rfl⟩ := exec_effect_or_raise h
  · obtain ⟨v, e⟩ | ⟨v, e⟩ := effect_rdData_cases s <;> rw [e]
    · exact ⟨rfl, .inr ⟨v, rfl⟩⟩
    · exact ⟨rfl, .inr ⟨v, rfl⟩⟩
  · exact ⟨rfl, .inl rfl⟩

theorem pure_read_frame {i : Instr} (hi : i = .rdStatusA ∨ i = .rdControlB ∨ i = .rdBaudLow)
    (h : exec i s = .next t) : t = { s with faults := t.faults, returned := t.returned } ∧ AtMostOneRead s t := by
  obtain rfl | ⟨f, rfl⟩ := exec_effect_or_raise h
  · obtain ⟨v, e⟩ := effect_pure_read hi s
    rw [e]
    exact ⟨rfl, .inr ⟨v, rfl⟩⟩
  · exact ⟨rfl, .inl rfl⟩

theorem rdShared_frame (h : exec .rdShared s = .next t) :
    t = { s with faults := t.faults, returned := t.returned, draws := t.draws } ∧ AtMostOneRead s t := by
  obtain rfl | ⟨f, rfl⟩ := exec_effect_or_raise h
  · exact ⟨rfl, .inr ⟨(draw s).1, rfl⟩⟩
  · exact ⟨rfl, .inl rfl⟩

theorem wrData_frame {d : Byte} (h : exec (.wrData d) s = .next t) :
    t = { s with txbuf := t.txbuf, faults := t.faults } := by
  obtain rfl | ⟨f, rfl⟩ := exec_effect_or_raise h
  · obtain ⟨_, e⟩ | ⟨_, _, e⟩ | ⟨_, _, e⟩ := portWrData_cases d s <;> rw [effect, e] <;> rfl
  · rfl

theorem wrControlB_frame {d : Byte} (h : exec (.wrControlB d) s = .next t) :
    t = { s with b := { s.b with rxen := t.b.rxen, txen := t.b.txen, txb8 := t.b.txb8 }, faults := t.faults,
                 refused := t.refused } := by
  obtain rfl | ⟨f, rfl⟩ := exec_effect_or_raise h
  · obtain ⟨_, _, e⟩ | ⟨_, e⟩ := portWrControlB_cases d s <;> rw [effect, e] <;> rfl
  · rfl

theorem wrBaudHigh_frame {hi : BitVec 7} (h : exec (.wrBaudHigh hi) s = .next t) :
    t = { s with ubrrh := t.ubrrh, faults := t.faults, refused := t.refused } := by
  obtain rfl | ⟨f, rfl⟩ := exec_effect_or_raise h
  · obtain ⟨_, e⟩ | ⟨_, e⟩ := portWrBaudHigh_cases hi s <;> rw [effect, e] <;> rfl
  · rfl

theorem wrStatusA_frame {d : Byte} (h : exec (.wrStatusA d) s = .next t) :
    t = { s with faults := t.faults, refused := t.refused } := by
  obtain rfl | ⟨f, rfl⟩ := exec_effect_or_raise h
  · rfl
  · rfl

theorem wrControlC_frame {c : Format} (h : exec (.wrControlC c) s = .next t) :
    t = { s with c := t.c, faults := t.faults } := by
  obtain rfl | ⟨f, rfl⟩ := exec_effect_or_raise h
  · rfl
  · rfl

theorem wrBaudLow_frame {d : Byte} (h : exec (.wrBaudLow d) s = .next t) :
    t = { s with ubrrl := t.ubrrl, faults := t.faults } := by
  obtain rfl | ⟨f, rfl⟩ := exec_effect_or_raise h
  · rfl
  · rfl

/-- Settles O22, from the frame of each transaction. -/
theorem transactionFrame : Obligations.TransactionFrame := by
  refine ⟨fun s t h => ?_, fun s t i hi h => ?_, fun s t h => ?_, fun s t d h => ⟨wrData_frame h, exec_memRead h⟩,
    fun s t d h => ⟨wrStatusA_frame h, exec_memRead h⟩, fun s t d h => ⟨wrControlB_frame h, exec_memRead h⟩,
    fun s t hi h => ⟨wrBaudHigh_frame h, exec_memRead h⟩, fun s t c h => ⟨wrControlC_frame h, exec_memRead h⟩,
    fun s t d h => ⟨wrBaudLow_frame h, exec_memRead h⟩⟩
  · obtain ⟨hframe, hvalue⟩ := rdData_frame h
    exact ⟨hframe, hvalue, exec_memRead h⟩
  · obtain ⟨hframe, hvalue⟩ := pure_read_frame hi h
    exact ⟨hframe, hvalue, exec_memRead h⟩
  · obtain ⟨hframe, hvalue⟩ := rdShared_frame h
    exact ⟨hframe, hvalue, exec_memRead h⟩

end Sys2Proof.Machine
end

section
/-! PROOFS. Caller memory (R44, R56): no move but the host's write changes it, no step but the controller's fetch reads
it, and what the host's write does. -/

namespace Sys2Proof.Machine

variable {s t : State} {m : Move}

/-- No move but the host's own write changes caller memory: it lies in no footprint. -/
theorem perform_mem (hm : ∀ a b, m ≠ .writeMem a b) (h : perform m s = .next t) : t.mem = s.mem := by
  cases perform_next h with
  | reset => rfl
  | instr _ _ i => exact effect_mem i s
  | reserved => rfl
  | contended => rfl
  | elsewhere => rfl
  | readBusy => rfl
  | readResult => exact (congrArg State.mem (readResult_footprint s) :)
  | writeMem a b => exact absurd rfl (hm a b)
  | frame b fe => exact (congrArg State.mem (receiverStep_footprint b fe s) :)
  | controller hl => exact (congrArg State.mem (controllerStep_footprint hl) :)
  | transmitter => exact (congrArg State.mem (transmitterStep_footprint s) :)

/-- Settles O38: the memory is the same, so every byte of it is. -/
theorem blockNeverWritesCallerMemory : Obligations.BlockNeverWritesCallerMemory :=
  fun _ _ _ h hm a => congrArg (memGet · a.toNat) (perform_mem hm h)

/-- The host's write is refused exactly at a byte the running SENDSTR has still to fetch (R56). -/
theorem awaitsFetch_iff (s : State) (a : Addr) : awaitsFetch s a = true ↔
    (s.ctl.state = .ssFetch ∧ s.ctl.addr.toNat ≤ a.toNat) ∨
      ((s.ctl.state = .ssPoll ∨ s.ctl.state = .ssAct) ∧ s.ctl.addr.toNat < a.toNat) := by
  cases hq : s.ctl.state <;> simp [awaitsFetch, hq, BitVec.le_def, BitVec.lt_def]

theorem perform_writeMem (hl : s.Live) {a : Addr} (h : awaitsFetch s a = false) (b : Byte) :
    perform (.writeMem a b) s = .next (storeByte a b s) := by
  simp [perform, writeCallerMemory, h, whenLive_live hl]

theorem perform_writeMem_unfetched (hl : s.Live) {a : Addr} (h : awaitsFetch s a = true) (b : Byte) :
    perform (.writeMem a b) s = .refused (.callerMemoryInUse a) := by
  simp [perform, writeCallerMemory, h, (live_iff s).mpr hl]

theorem memRead_storeByte_same (h : Memory.wf s.mem) (a : Addr) (b : Byte) : memRead (storeByte a b s) a = b :=
  memGet_memPut_same s.mem a.toNat b h.1

theorem memRead_storeByte_other {a c : Addr} (h : c ≠ a) (b : Byte) : memRead (storeByte a b s) c = memRead s c :=
  memGet_memPut_other s.mem a.toNat c.toNat b fun e => h (BitVec.eq_of_toNat_eq e)

/-- Settles O40, from the memory laws: the write is `storeByte`, except at an unfetched byte. -/
theorem hostMemoryWrite : Obligations.HostMemoryWrite := by
  intro s a b hl hwf
  refine ⟨fun hfetched => ?_, fun hunfetched => ?_⟩
  · have hfree : awaitsFetch s a = false := eq_false_of_ne_true (hfetched ∘ (awaitsFetch_iff s a).mp)
    exact ⟨storeByte a b s, perform_writeMem hl hfree b, rfl, memPut_wf s.mem a b hwf, memRead_storeByte_same hwf a b,
      fun c hc => memRead_storeByte_other hc b⟩
  · exact perform_writeMem_unfetched hl ((awaitsFetch_iff s a).mpr hunfetched) b

/-! What does not read caller memory does the same under any other. -/

/-- The function of the state does the same whatever caller memory holds, and leaves it. -/
def IgnoresMemory (k : State → State) : Prop := ∀ (mem : Memory) (s : State), k (setMem mem s) = setMem mem (k s)

theorem andThen_setMem {k : State → State} (hk : IgnoresMemory k) (mem : Memory) (x : State) :
    andThen (setMem mem x) k = setMem mem (andThen x k) := by
  obtain ⟨hl, e⟩ | ⟨hl, e⟩ := andThen_cases x k <;> rw [e]
  · exact (andThen_live (s := setMem mem x) hl k).trans (hk mem x)
  · exact andThen_stop (s := setMem mem x) hl k

theorem IgnoresMemory.andThen {f k : State → State} (hf : IgnoresMemory f) (hk : IgnoresMemory k) :
    IgnoresMemory fun s => andThen (f s) k := by
  intro mem s
  simp only [hf mem s, andThen_setMem hk]

/-- A test that does not read caller memory, between two functions that do not. -/
theorem IgnoresMemory.ite {c : State → Prop} [DecidablePred c] {f k : State → State}
    (hc : ∀ mem s, c (setMem mem s) ↔ c s) (hf : IgnoresMemory f) (hk : IgnoresMemory k) :
    IgnoresMemory fun s => if c s then f s else k s := by
  intro mem s
  by_cases h : c s
  · simp only [if_pos h, if_pos ((hc mem s).mpr h), hf mem s]
  · simp only [if_neg h, if_neg (mt (hc mem s).mp h), hk mem s]

theorem IgnoresMemory.whenAdmitted {k : State → State} (hk : IgnoresMemory k) :
    IgnoresMemory fun s => whenAdmitted s k :=
  .ite (fun _ _ => .rfl) hk fun _ _ => rfl

theorem portRdData_setMem (mem : Memory) (s : State) :
    portRdData (setMem mem s) = ((portRdData s).1, setMem mem (portRdData s).2) := by
  simp only [portRdData, setMem_rxbuf]
  cases s.rxbuf <;> rfl

theorem portWrData_ignoresMemory (d : Byte) : IgnoresMemory (portWrData d) := by
  refine .ite (fun _ _ => .rfl) (fun _ _ => rfl) fun mem s => ?_
  rw [setMem_txbuf]
  cases s.txbuf <;> rfl

theorem portWrControlB_ignoresMemory (d : Byte) : IgnoresMemory (portWrControlB d) := by
  intro mem s
  simp only [portWrControlB, setMem_b]
  cases controlBRefusal d s.b <;> rfl

theorem portWrBaudHigh_ignoresMemory (hi : BitVec 7) : IgnoresMemory (portWrBaudHigh hi) :=
  .ite (fun _ _ => .rfl) (fun _ _ => rfl) fun _ _ => rfl

theorem portWrShared_ignoresMemory (d : Byte) : IgnoresMemory (portWrShared d) :=
  .ite (fun _ _ => .rfl) (fun _ _ => rfl) (portWrBaudHigh_ignoresMemory (payload d))

theorem acceptInit_ignoresMemory (baud : Baud) : IgnoresMemory (acceptInit baud) := by
  intro mem s
  simp only [acceptInit, setMem_params]
  cases divisor s.params (baudRate baud) <;> rfl

/-- No instruction reads caller memory. -/
theorem effect_ignoresMemory (i : Instr) : IgnoresMemory (effect i) := by
  intro mem s
  cases i with
  | rdData => simp only [effect, portRdData_setMem]; rfl
  | wrData d => exact portWrData_ignoresMemory d mem s
  | wrControlB d => exact portWrControlB_ignoresMemory d mem s
  | wrBaudHigh hi => exact portWrBaudHigh_ignoresMemory hi mem s
  | init baud => exact acceptInit_ignoresMemory baud mem s
  | rdStatusA => rfl
  | rdControlB => rfl
  | rdShared => rfl
  | rdBaudLow => rfl
  | wrStatusA d => rfl
  | wrControlC c => rfl
  | wrBaudLow d => rfl
  | tx byte => rfl
  | rx => rfl
  | sendstr addr => rfl

theorem goto_ignoresMemory (q : CtlState) : IgnoresMemory (goto q) := fun _ _ => rfl

theorem stepInitWh_ignoresMemory : IgnoresMemory stepInitWh := fun mem s =>
  (portWrShared_ignoresMemory (highByte s.ctl.div)).andThen (goto_ignoresMemory .initWl) mem s

theorem stepInitWl_ignoresMemory : IgnoresMemory stepInitWl := fun mem s =>
  andThen_setMem (goto_ignoresMemory .initWb) mem (portWrBaudLow (lowByte s.ctl.div) s)

theorem stepInitWb_ignoresMemory : IgnoresMemory stepInitWb :=
  (portWrControlB_ignoresMemory 0x18).andThen (goto_ignoresMemory .initWc)

theorem stepInitWc_ignoresMemory : IgnoresMemory stepInitWc :=
  (portWrShared_ignoresMemory 0x86).andThen (goto_ignoresMemory .idle)

theorem stepTxAct_ignoresMemory : IgnoresMemory stepTxAct := fun mem s =>
  (portWrData_ignoresMemory s.ctl.byte).andThen (goto_ignoresMemory .idle) mem s

theorem stepRxAct_ignoresMemory : IgnoresMemory stepRxAct := fun mem s => by
  rw [stepRxAct, portRdData_setMem]
  exact andThen_setMem (k := fun t => setCtl { t.ctl with result := some (portRdData s).1, state := .idle } t)
    (fun _ _ => rfl) mem (portRdData s).2

theorem stepSsAct_ignoresMemory : IgnoresMemory stepSsAct := fun mem s =>
  (portWrData_ignoresMemory s.ctl.byte).andThen (.ite (fun _ _ => .rfl) (fun _ _ => rfl) fun _ _ => rfl) mem s

/-- No controller step but SS_FETCH reads caller memory (R44, R117). -/
theorem controllerStep_setMem (hq : s.ctl.state ≠ .ssFetch) (mem : Memory) :
    controllerStep (setMem mem s) = setMem mem (controllerStep s) := by
  unfold controllerStep
  rw [setMem_ctl]
  cases h : s.ctl.state with
  | idle => rfl
  | initWh => exact stepInitWh_ignoresMemory mem s
  | initWl => exact stepInitWl_ignoresMemory mem s
  | initWb => exact stepInitWb_ignoresMemory mem s
  | initWc => exact stepInitWc_ignoresMemory mem s
  | txPoll => rfl
  | txAct => exact stepTxAct_ignoresMemory mem s
  | rxPoll => rfl
  | rxAct => exact stepRxAct_ignoresMemory mem s
  | ssFetch => exact absurd h hq
  | ssPoll => rfl
  | ssAct => exact stepSsAct_ignoresMemory mem s

theorem completeTx_ignoresMemory : IgnoresMemory completeTx :=
  .ite (fun _ _ => .rfl) (fun _ _ => rfl) fun _ _ => rfl

theorem txLoad_ignoresMemory : IgnoresMemory txLoad := .whenAdmitted fun _ _ => rfl

theorem txDone_ignoresMemory : IgnoresMemory txDone := by
  refine .whenAdmitted fun mem s => ?_
  rw [setMem_txshift]
  cases s.txshift with
  | none => rfl
  | some e => exact completeTx_ignoresMemory mem (setTxshift none (emit e s))

/-- The transmitter does not read caller memory. -/
theorem transmitterStep_ignoresMemory : IgnoresMemory transmitterStep :=
  .ite (fun _ _ => .rfl) txDone_ignoresMemory (.ite (fun _ _ => .rfl) txLoad_ignoresMemory fun _ _ => rfl)

/-- Nor does the receiver. -/
theorem receiverStep_ignoresMemory (b : Byte) (fe : Bool) : IgnoresMemory (receiverStep b fe) := by
  refine .ite (fun _ _ => .rfl) (fun _ _ => rfl) (.whenAdmitted fun mem s => ?_)
  rw [setMem_rxbuf]
  cases s.rxbuf <;> rfl

theorem readResult_ignoresMemory : IgnoresMemory readResult := by
  intro mem s
  simp only [readResult, setMem_ctl]
  cases s.ctl.result <;> rfl

/-- A step that ignores caller memory behind the check of quiescence answers the same whatever the memory holds. -/
theorem whenLive_setMem {k : State → State} (mem : Memory) (hk : k (setMem mem s) = setMem mem (k s))
    (h : whenLive s k = .next t) : whenLive (setMem mem s) k = .next (setMem mem t) := by
  obtain ⟨hl, rfl⟩ := whenLive_next.mp h
  exact whenLive_next.mpr ⟨hl, hk.symm⟩

theorem IgnoresMemory.whenLive {k : State → State} (hk : IgnoresMemory k) (mem : Memory)
    (h : whenLive s k = .next t) : whenLive (setMem mem s) k = .next (setMem mem t) :=
  whenLive_setMem mem (hk mem s) h

/-- The check of ownership does not read caller memory. -/
theorem IgnoresMemory.unlessBusy {k : State → State} (f : FaultCode) (hk : IgnoresMemory k) :
    IgnoresMemory fun s => if busy s then raise f s else k s :=
  .ite (fun _ _ => .rfl) (fun _ _ => rfl) hk

theorem offerWord_setMem {w : PortWord} (mem : Memory) (h : offerWord w s = .next t) :
    offerWord w (setMem mem s) = .next (setMem mem t) := by
  unfold offerWord at h ⊢
  split at h
  next i _ =>
    rw [exec_eq] at h ⊢
    exact ((effect_ignoresMemory i).unlessBusy (contention (encode i))).whenLive mem h
  next r _ =>
    have hrefuse : IgnoresMemory (refuse r) := fun _ _ => rfl
    cases w
    · exact (hrefuse.unlessBusy .busContention).whenLive mem h
    · exact (hrefuse.unlessBusy .cmdBusy).whenLive mem h

/-- Settles O39, move by move: what each does ignores caller memory. -/
theorem onlyFetchReadsCallerMemory : Obligations.OnlyFetchReadsCallerMemory := by
  intro s t m mem h hm hq
  cases m with
  | offer w => exact offerWord_setMem mem h
  | access n w =>
    simp only [perform, platformAccess] at h ⊢
    split at h
    next => exact offerWord_setMem mem h
    next => exact whenLive_setMem mem rfl h
  | readBusy => exact whenLive_setMem mem rfl h
  | readResult => exact readResult_ignoresMemory.whenLive mem h
  | writeMem a b => exact absurd rfl (hm a b)
  | frame b fe => exact (receiverStep_ignoresMemory b fe).whenLive mem h
  | turn g =>
    cases g with
    | controller => exact whenLive_setMem mem (controllerStep_setMem (hq rfl) mem) h
    | transmitter => exact transmitterStep_ignoresMemory.whenLive mem h
  | reset =>
    cases h
    rfl

end Sys2Proof.Machine
end

section
/-! PROOFS. The encoding (30_encoding.md): decoder and encoder are inverse to each other, the words the decoder refuses,
the opcode table, and the pseudo-instructions of R72. -/

namespace Sys2Proof

/-! The command decoder by its opcode (R63). -/

section
variable {w : CmdWord}

theorem decodeCmd_init (h : w.extractLsb' 24 8 = 1) : decodeCmd w = .ok (.init (w.extractLsb' 0 24)) := by
  simp [decodeCmd, h]

theorem decodeCmd_tx (h : w.extractLsb' 24 8 = 2) :
    decodeCmd w = if w.extractLsb' 8 16 = 0 then .ok (.tx (w.extractLsb' 0 8)) else .error .reservedCommand := by
  simp [decodeCmd, h]

theorem decodeCmd_rx (h : w.extractLsb' 24 8 = 3) :
    decodeCmd w = if w.extractLsb' 0 24 = 0 then .ok .rx else .error .reservedCommand := by
  simp [decodeCmd, h]

theorem decodeCmd_sendstr (h : w.extractLsb' 24 8 = 4) :
    decodeCmd w = if w.extractLsb' 16 8 = 0 then .ok (.sendstr (w.extractLsb' 0 16)) else .error .reservedCommand := by
  simp [decodeCmd, h]

theorem decodeCmd_reservedOp (h : w.extractLsb' 24 8 = 0 ∨ 5 ≤ (w.extractLsb' 24 8).toNat) :
    decodeCmd w = .error .reservedCommand := by
  unfold decodeCmd
  generalize w.extractLsb' 24 8 = op at h
  obtain ⟨h1, h2, h3, h4⟩ : op ≠ 1 ∧ op ≠ 2 ∧ op ≠ 3 ∧ op ≠ 4 := by
    revert op
    decide
  rw [if_neg h1, if_neg h2, if_neg h3, if_neg h4]

/-- An OP field is one of the four opcodes or reserved (R62, R67). -/
theorem op_cases : ∀ op : Byte, op = 1 ∨ op = 2 ∨ op = 3 ∨ op = 4 ∨ op = 0 ∨ 5 ≤ op.toNat := by decide

end

/-! Decoding an encoded word. -/

theorem decodeCmd_cmdWord_init (baud : Baud) : decodeCmd (cmdWord 1 baud) = .ok (.init baud) := by
  rw [decodeCmd_init (cmdWord_op ..), cmdWord_imm _ _ _ _ (by decide), BitVec.extractLsb'_eq_self]

theorem decodeCmd_cmdWord_tx (byte : Byte) : decodeCmd (cmdWord 2 (0#16 ++ byte)) = .ok (.tx byte) := by
  rw [decodeCmd_tx (cmdWord_op ..), cmdWord_imm _ _ _ _ (by decide), cmdWord_imm _ _ _ _ (by decide),
    zext_operand_high, zext_operand_low, if_pos rfl]

theorem decodeCmd_cmdWord_rx : decodeCmd (cmdWord 3 0) = .ok .rx := by decide

theorem decodeCmd_cmdWord_sendstr (addr : Addr) : decodeCmd (cmdWord 4 (0#8 ++ addr)) = .ok (.sendstr addr) := by
  rw [decodeCmd_sendstr (cmdWord_op ..), cmdWord_imm _ _ _ _ (by decide), cmdWord_imm _ _ _ _ (by decide),
    zext_operand_high, zext_operand_low, if_pos rfl]

/-- Settles O1, instruction by instruction: a transaction through its location's read or write word, a command through
its opcode. -/
theorem decodeEncodeAgree : Obligations.DecodeEncodeAgree := by
  intro i
  cases i with
  | rdData => exact decodeBus_read .data
  | rdStatusA => exact decodeBus_read .statusA
  | rdControlB => exact decodeBus_read .controlB
  | rdShared => exact decodeBus_read .shared
  | rdBaudLow => exact decodeBus_read .baudLow
  | wrData d => exact decodeBus_write .data d
  | wrStatusA d => exact decodeBus_write .statusA d
  | wrControlB d => exact decodeBus_write .controlB d
  | wrBaudHigh hi => exact (decodeBus_write .shared (0#1 ++ hi)).trans (congrArg _ (writeInstr_shared_high hi))
  | wrControlC c => exact (decodeBus_write .shared (1#1 ++ c)).trans (congrArg _ (writeInstr_shared_format c))
  | wrBaudLow d => exact decodeBus_write .baudLow d
  | init baud => exact decodeCmd_cmdWord_init baud
  | tx byte => exact decodeCmd_cmdWord_tx byte
  | rx => exact decodeCmd_cmdWord_rx
  | sendstr addr => exact decodeCmd_cmdWord_sendstr addr

/-! Encoding a decoded instruction. -/

theorem encode_of_decodeBus {w : BusWord} {i : Instr} (h : decodeBus w = .ok i) : encode i = .bus w := by
  obtain ⟨r, d, ⟨rfl, rfl⟩ | ⟨rfl, rfl⟩⟩ := decodeBus_ok h
  · exact encode_writeInstr r d
  · exact encode_readInstr r

/-- With zeros above it, the operand is the IMM field (R64). -/
theorem zext_extract {w : CmdWord} {k n : Nat} (h : w.extractLsb' k n = 0) :
    0#n ++ w.extractLsb' 0 k = w.extractLsb' 0 (n + k) := by
  rw [← BitVec.extractLsb'_append_extractLsb'_eq_extractLsb' (Nat.zero_add k).symm, h]; rfl

/-- A CMD32 word is its opcode over its IMM field (R62). -/
theorem cmdWord_of_op {w : CmdWord} {op : Byte} {imm : BitVec 24} (hop : w.extractLsb' 24 8 = op)
    (himm : imm = w.extractLsb' 0 24) : cmdWord op imm = w := by
  rw [← hop, himm, cmdWord_fields]

theorem encode_of_decodeCmd {w : CmdWord} {i : Instr} (h : decodeCmd w = .ok i) : encode i = .cmd w := by
  obtain hop | hop | hop | hop | hop := op_cases (w.extractLsb' 24 8)
  · rw [decodeCmd_init hop] at h
    cases h
    exact congrArg PortWord.cmd (cmdWord_of_op hop rfl)
  · rw [decodeCmd_tx hop] at h
    split_ifs at h with hz
    cases h
    exact congrArg PortWord.cmd (cmdWord_of_op hop (zext_extract hz))
  · rw [decodeCmd_rx hop] at h
    split_ifs at h with hz
    cases h
    exact congrArg PortWord.cmd (cmdWord_of_op hop hz.symm)
  · rw [decodeCmd_sendstr hop] at h
    split_ifs at h with hz
    cases h
    exact congrArg PortWord.cmd (cmdWord_of_op hop (zext_extract hz))
  · rw [decodeCmd_reservedOp hop] at h
    cases h

/-- Settles O2, port by port: a word that decodes is made of the fields the encoder writes. -/
theorem encodeDecodeAgree : Obligations.EncodeDecodeAgree
  | .bus _, _, h => encode_of_decodeBus h
  | .cmd _, _, h => encode_of_decodeCmd h

/-- Decoding and encoding are inverse to each other. -/
theorem decode_ok_iff {w : PortWord} {i : Instr} : decode w = .ok i ↔ encode i = w :=
  ⟨encodeDecodeAgree w i, fun h => h ▸ decodeEncodeAgree i⟩

/-! The refused words. -/

theorem decodeBus_error_iff (w : BusWord) : decodeBus w = .error .reservedBusWord ↔
    (5 ≤ (w.extractLsb' 8 3).toNat ∨ w.extractLsb' 11 4 ≠ 0 ∨
      (w.getLsbD 15 = false ∧ w.extractLsb' 0 8 ≠ 0)) := by
  rw [← ofBits_eq_none]
  unfold decodeBus
  by_cases hz : w.extractLsb' 11 4 = 0
  · cases hr : RegIndex.ofBits (w.extractLsb' 8 3) with
    | none => simp [hz]
    | some r => cases hw : w.getLsbD 15 <;> simp [hz]
  · exact iff_of_true (if_pos hz) (.inr (.inl hz))

theorem decodeCmd_error_iff (w : CmdWord) : decodeCmd w = .error .reservedCommand ↔
    (w.extractLsb' 24 8 = 0 ∨ 5 ≤ (w.extractLsb' 24 8).toNat ∨
      (w.extractLsb' 24 8 = 2 ∧ w.extractLsb' 8 16 ≠ 0) ∨
      (w.extractLsb' 24 8 = 3 ∧ w.extractLsb' 0 24 ≠ 0) ∨
      (w.extractLsb' 24 8 = 4 ∧ w.extractLsb' 16 8 ≠ 0)) := by
  obtain hop | hop | hop | hop | hop := op_cases (w.extractLsb' 24 8)
  · simp [decodeCmd_init hop, hop]
  · simp [decodeCmd_tx hop, hop]
  · simp [decodeCmd_rx hop, hop]
  · simp [decodeCmd_sendstr hop, hop]
  · exact iff_of_true (decodeCmd_reservedOp hop) (or_assoc.mp (.inl hop))

/-- Settles O3, field by field on each port. -/
theorem reservedWordsRefused : Obligations.ReservedWordsRefused := ⟨decodeBus_error_iff, decodeCmd_error_iff⟩

/-! The opcode table (R65). -/

/-- The word of every instruction lies in the row of its mnemonic. -/
theorem encode_in_tableRow (i : Instr) : Laws.TableRow.Statement i := by
  cases i with
  | rdData => exact Laws.TableRow.rdData
  | rdStatusA => exact Laws.TableRow.rdStatusA
  | rdControlB => exact Laws.TableRow.rdControlB
  | rdShared => exact Laws.TableRow.rdShared
  | rdBaudLow => exact Laws.TableRow.rdBaudLow
  | wrData d => exact Laws.TableRow.wrData d
  | wrStatusA d => exact Laws.TableRow.wrStatusA d
  | wrControlB d => exact Laws.TableRow.wrControlB d
  | wrBaudHigh hi => exact Laws.TableRow.wrBaudHigh hi
  | wrControlC c => exact Laws.TableRow.wrControlC c
  | wrBaudLow d => exact Laws.TableRow.wrBaudLow d
  | init baud => exact Laws.TableRow.init baud
  | tx byte => exact Laws.TableRow.tx byte
  | rx => exact Laws.TableRow.rx
  | sendstr addr => exact Laws.TableRow.sendstr addr

/-- A word that agrees with `p` above its `k` low bits is `p` over those bits. -/
theorem eq_append_of_mask {n k : Nat} {w : BitVec (n + k)} (p : BitVec n)
    (h : w &&& (BitVec.allOnes n ++ 0#k) = p ++ 0#k) : p ++ w.extractLsb' 0 k = w := by
  have hw : w.extractLsb' k n ++ w.extractLsb' 0 k = w := by
    rw [BitVec.extractLsb'_append_extractLsb'_eq_extractLsb' (Nat.zero_add k).symm, BitVec.extractLsb'_eq_self]
  rw [← hw, BitVec.and_append, BitVec.and_allOnes, BitVec.and_zero, BitVec.append_left_inj] at h
  rw [← h, hw]

theorem eq_of_full_mask {n : Nat} {w p : BitVec n} (h : w &&& BitVec.allOnes n = p) : p = w := by
  rw [← h, BitVec.and_allOnes]

/-- The shared write word is nine fixed bits over the payload. -/
theorem busWord_shared : ∀ p : BitVec 7,
    busWord true .shared (0#1 ++ p) = 0x106#9 ++ p ∧ busWord true .shared (1#1 ++ p) = 0x107#9 ++ p := by
  decide

/-- A word in a BUS16 row is the word of an instruction of that mnemonic. -/
theorem busRow_word {w : BusWord} {row : OpcodeRow 16} (hrow : row ∈ busRows) (h : w &&& row.mask = row.pattern) :
    ∃ i, i.mnemonic = row.mnemonic ∧ encode i = .bus w := by
  simp only [busRows, List.mem_cons, List.not_mem_nil, or_false] at hrow
  obtain rfl | rfl | rfl | rfl | rfl | rfl | rfl | rfl | rfl | rfl | rfl := hrow
  · exact ⟨.rdData, rfl, congrArg PortWord.bus (eq_of_full_mask h)⟩
  · exact ⟨.rdStatusA, rfl, congrArg PortWord.bus (eq_of_full_mask h)⟩
  · exact ⟨.rdControlB, rfl, congrArg PortWord.bus (eq_of_full_mask h)⟩
  · exact ⟨.rdShared, rfl, congrArg PortWord.bus (eq_of_full_mask h)⟩
  · exact ⟨.rdBaudLow, rfl, congrArg PortWord.bus (eq_of_full_mask h)⟩
  · exact ⟨.wrData _, rfl, congrArg PortWord.bus (eq_append_of_mask 0x80#8 h)⟩
  · exact ⟨.wrStatusA _, rfl, congrArg PortWord.bus (eq_append_of_mask 0x81#8 h)⟩
  · exact ⟨.wrControlB _, rfl, congrArg PortWord.bus (eq_append_of_mask 0x82#8 h)⟩
  · exact ⟨.wrBaudHigh _, rfl,
      congrArg PortWord.bus ((busWord_shared _).1.trans (eq_append_of_mask (k := 7) 0x106#9 h))⟩
  · exact ⟨.wrControlC _, rfl,
      congrArg PortWord.bus ((busWord_shared _).2.trans (eq_append_of_mask (k := 7) 0x107#9 h))⟩
  · exact ⟨.wrBaudLow _, rfl, congrArg PortWord.bus (eq_append_of_mask 0x84#8 h)⟩

theorem cmdWord_tx (byte : Byte) : cmdWord 2 (0#16 ++ byte) = 0x020000#24 ++ byte :=
  (BitVec.append_assoc (x₁ := 2#8) (x₂ := 0#16) (x₃ := byte)).symm

theorem cmdWord_sendstr (addr : Addr) : cmdWord 4 (0#8 ++ addr) = 0x0400#16 ++ addr :=
  (BitVec.append_assoc (x₁ := 4#8) (x₂ := 0#8) (x₃ := addr)).symm

/-- A word in a CMD32 row is the word of an instruction of that mnemonic. -/
theorem cmdRow_word {w : CmdWord} {row : OpcodeRow 32} (hrow : row ∈ cmdRows) (h : w &&& row.mask = row.pattern) :
    ∃ i, i.mnemonic = row.mnemonic ∧ encode i = .cmd w := by
  simp only [cmdRows, List.mem_cons, List.not_mem_nil, or_false] at hrow
  obtain rfl | rfl | rfl | rfl := hrow
  · exact ⟨.init _, rfl, congrArg PortWord.cmd (eq_append_of_mask 0x01#8 h)⟩
  · exact ⟨.tx _, rfl, congrArg PortWord.cmd ((cmdWord_tx _).trans (eq_append_of_mask (k := 8) 0x020000#24 h))⟩
  · exact ⟨.rx, rfl, congrArg PortWord.cmd (eq_of_full_mask h)⟩
  · exact ⟨.sendstr _, rfl,
      congrArg PortWord.cmd ((cmdWord_sendstr _).trans (eq_append_of_mask (k := 16) 0x0400#16 h))⟩

/-- Settles O4: a word that decodes is its instruction's, which lies in that mnemonic's row, and a word in a row is the
word of an instruction, which decodes to it. -/
theorem decoderMatchesOpcodeTable : Obligations.DecoderMatchesOpcodeTable := by
  refine ⟨fun w name => ⟨?_, ?_⟩, fun w name => ⟨?_, ?_⟩⟩
  · rintro ⟨i, hi, rfl⟩
    have hrow := encode_in_tableRow i
    rwa [Laws.TableRow.Statement, encode_of_decodeBus hi] at hrow
  · rintro ⟨row, hrow, rfl, hw⟩
    obtain ⟨i, hname, hi⟩ := busRow_word hrow hw
    exact ⟨i, decode_ok_iff.mpr hi, hname⟩
  · rintro ⟨i, hi, rfl⟩
    have hrow := encode_in_tableRow i
    rwa [Laws.TableRow.Statement, encode_of_decodeCmd hi] at hrow
  · rintro ⟨row, hrow, rfl, hw⟩
    obtain ⟨i, hname, hi⟩ := cmdRow_word hrow hw
    exact ⟨i, decode_ok_iff.mpr hi, hname⟩

/-- Settles O5, word by word. -/
theorem specWordsDecode : Obligations.SpecWordsDecode := by
  unfold Obligations.SpecWordsDecode
  decide

/-! The pseudo-instructions (R72). -/

theorem asmOperand_num {n d : Nat} (h : d < 2 ^ n) : asmOperand n (.num d) = some (BitVec.ofNat n d) := if_pos h

/-- The number a write word is: W, the location and the data byte (R60). -/
theorem busWord_write_eq (r : RegIndex) (d : Byte) :
    busWord true r d = BitVec.ofNat 16 (0x8000 + 0x100 * r.bits.toNat + d.toNat) := by
  revert d
  cases r <;> decide

theorem encode_writeInstr_ofNat (r : RegIndex) {d : Nat} (h : d < 256) :
    encode (writeInstr r (BitVec.ofNat 8 d)) = .bus (BitVec.ofNat 16 (0x8000 + 0x100 * r.bits.toNat + d)) := by
  rw [encode_writeInstr, busWord_write_eq, BitVec.toNat_ofNat, Nat.mod_eq_of_lt h]

theorem extract_high_ofNat {d : Nat} (h : d < 65536) :
    (BitVec.ofNat 16 d).extractLsb' 8 8 = BitVec.ofNat 8 (d / 256) := by
  apply BitVec.eq_of_toNat_eq
  simp [BitVec.extractLsb'_toNat, Nat.shiftRight_eq_div_pow, Nat.mod_eq_of_lt h]

theorem extract_low_ofNat (d : Nat) : (BitVec.ofNat 16 d).extractLsb' 0 8 = BitVec.ofNat 8 (d % 256) := by
  apply BitVec.eq_of_toNat_eq
  simp [BitVec.extractLsb'_toNat]

theorem expand_ldbaud {mask : Byte} {d : Nat} (hd : d < 65536) (hm : BitVec.ofNat 8 (d / 256) &&& ~~~mask = 0) :
    AsmLine.expand mask (.ldbaud (.num d)) =
      some [writeInstr .shared (BitVec.ofNat 8 (d / 256)), writeInstr .baudLow (BitVec.ofNat 8 (d % 256))] := by
  rw [AsmLine.expand, asmOperand_num (n := 16) hd, Option.bind_some, extract_high_ofNat hd, extract_low_ofNat,
    if_pos hm]
  rfl

/-- Settles O6: each line expands to writes, and a write's word is the number of its fields. -/
theorem pseudoInstructionsExpand : Obligations.PseudoInstructionsExpand := by
  refine ⟨fun mask d hd => ?_, fun mask d hd _ hm => ?_, fun _ => rfl, fun _ => rfl⟩
  · rw [assemble, AsmLine.expand, asmOperand_num hd]
    exact congrArg (fun w => some [w]) (encode_writeInstr_ofNat .shared hd)
  · rw [assemble, expand_ldbaud hd hm]
    have hhi := encode_writeInstr_ofNat .shared (d := d / 256) (by omega)
    have hlo := encode_writeInstr_ofNat .baudLow (d := d % 256) (by omega)
    exact congrArg₂ (fun u v => some [u, v]) hhi hlo

end Sys2Proof
end

section
/-! PROOFS. Refusals by the value of a host word (R69, R129): the reason is recorded and nothing else changes. -/

namespace Sys2Proof.Machine

variable {s : State}

/-- From a live state, a refusal is the one recorded (R129). -/
theorem refuse_of_live (h : s.Live) (r : RefusalCode) : refuse r s = { s with refused := some r } := by
  simp [refuse, h.2]

/-- The state's own reason for refusing a CONTROL_B write comes after those of the value (R79). -/
theorem controlBRefusal_of_value {mask d : Byte} {r : RefusalCode}
    (h : (Instr.wrControlB d).valueRefusal mask = some r) (b : ControlB) : controlBRefusal d b = some r := by
  simp only [Instr.valueRefusal] at h
  unfold controlBRefusal
  split_ifs at h with hie h9
  · rw [if_pos hie, h]
  · rw [if_neg hie, if_pos h9, h]

/-- A baud-rate high byte refused by its value lies outside the mask (R81). -/
theorem not_insideMask_of_value {p : Params} {hi : BitVec 7} {r : RefusalCode}
    (h : (Instr.wrBaudHigh hi).valueRefusal p.ubrrhMask = some r) :
    insideMask p (zextHigh hi) = false ∧ r = .baudHighReservedBits := by
  simp only [Instr.valueRefusal] at h
  split_ifs at h with hm
  exact ⟨by simpa [insideMask, zextHigh] using hm, by simpa using h.symm⟩

/-- What the value check refuses, the instruction's own rule refuses with the same reason (R69). -/
theorem effect_of_valueRefusal {i : Instr} {r : RefusalCode} (h : i.valueRefusal s.params.ubrrhMask = some r) :
    effect i s = refuse r s := by
  cases i with
  | wrStatusA d => cases h; rfl
  | wrControlB d => simp only [effect, portWrControlB, controlBRefusal_of_value h]
  | wrBaudHigh hi =>
    obtain ⟨hm, rfl⟩ := not_insideMask_of_value h
    simp [effect, portWrBaudHigh, hm]
  | rdData | rdStatusA | rdControlB | rdShared | rdBaudLow => cases h
  | wrData | wrControlC | wrBaudLow => cases h
  | init | tx | rx | sendstr => cases h

/-- Settles O10: the instruction's effect is the refusal with the reason of the check. -/
theorem valueRefusalsRecorded : Obligations.ValueRefusalsRecorded := fun s i r hs h => by
  rw [exec_ready hs, effect_of_valueRefusal h, refuse_of_live hs.1]

/-- A word that spells nothing, offered while the host owns the port, is refused with the decoder's reason. -/
theorem offerWord_reserved (hs : s.HostReady) {w : PortWord} {r : RefusalCode} (h : decode w = .error r) :
    offerWord w s = .next (refuse r s) := by
  rw [offerWord, h]
  cases w with
  | bus w => exact hostTransaction_ready hs (refuse r)
  | cmd w => exact hostCommand_ready hs (refuse r)

/-- Settles O9, on each port. -/
theorem reservedWordRecorded : Obligations.ReservedWordRecorded := fun s w r hs h => by
  rw [perform, offerWord_reserved hs h, refuse_of_live hs.1]

end Sys2Proof.Machine
end

section
/-! PROOFS. From the invariant, what the controller's step can raise; and the stability of UDRE and RXC (R85, R86): only
a write of DATA fills the transmit buffer, and only a read of DATA or reset takes a received byte. -/

namespace Sys2Proof.Machine

variable {s t : State} {m : Move}

/-! The outcome of a controller step under the invariant: no refusal, and no fault but F4 and F9. -/

/-- From a live state, a raised fault is the one recorded (R127). -/
theorem raise_of_live (h : s.Live) (f : FaultCode) : raise f s = { s with faults := [f] } := by
  simp [raise, h.1]

/-- What a controller step may record: nothing, F4 or F9. -/
def TxDisabledOrWrap (s : State) : Prop :=
  (s.faults = [] ∨ s.faults = [.txDisabled] ∨ s.faults = [.stringWrap]) ∧ s.refused = none

theorem TxDisabledOrWrap.of_live (h : s.Live) : TxDisabledOrWrap s := ⟨.inl h.1, h.2⟩

theorem TxDisabledOrWrap.raise_txDisabled (h : s.Live) : TxDisabledOrWrap (raise .txDisabled s) := by
  rw [raise_of_live h]
  exact ⟨.inr (.inl rfl), h.2⟩

theorem TxDisabledOrWrap.raise_stringWrap (h : s.Live) : TxDisabledOrWrap (raise .stringWrap s) := by
  rw [raise_of_live h]
  exact ⟨.inr (.inr rfl), h.2⟩

/-- UDRE holds at the act of a Transmit, so its write is never F3 (R85). -/
theorem stepTxAct_faults (hl : s.Live) (hready : s.txbuf = none) : TxDisabledOrWrap (stepTxAct s) := by
  obtain ⟨_, e⟩ | ⟨_, hfull, _⟩ | ⟨_, _, e⟩ := stepTxAct_cases hl
  · exact e ▸ .raise_txDisabled hl
  · exact absurd hready hfull
  · exact e ▸ .of_live hl

/-- RXC holds at the act of a Receive, so its read is never F5 (R86). -/
theorem stepRxAct_live (hl : s.Live) (hready : rxc s = true) : (stepRxAct s).Live := by
  obtain ⟨hempty, _⟩ | ⟨_, _, e⟩ := stepRxAct_cases hl
  · simp [rxc, hempty] at hready
  · exact e ▸ hl

/-- UDRE holds at the act of a SendString byte, so its write is never F3 (R85); F9 comes after it (R119). -/
theorem stepSsAct_faults (hl : s.Live) (hready : s.txbuf = none) : TxDisabledOrWrap (stepSsAct s) := by
  obtain ⟨_, e⟩ | ⟨_, hfull, _⟩ | ⟨_, _, _, e⟩ | ⟨_, _, _, e⟩ := stepSsAct_cases hl
  · exact e ▸ .raise_txDisabled hl
  · exact absurd hready hfull
  · exact e ▸ .raise_stringWrap (s := setTxbuf (some s.ctl.byte) s) hl
  · exact e ▸ .of_live hl

theorem stepSsFetch_live (hl : s.Live) : (stepSsFetch s).Live := by
  unfold stepSsFetch
  split <;> exact hl

theorem controllerStep_faults (h : s.Inv) (hl : s.Live) : TxDisabledOrWrap (controllerStep s) := by
  unfold controllerStep
  cases hq : s.ctl.state with
  | idle => exact .of_live hl
  | initWh => exact stepInitWh_eq hl h.params h.divLoadable ▸ .of_live hl
  | initWl => exact stepInitWl_eq hl ▸ .of_live hl
  | initWb => exact stepInitWb_eq hl ▸ .of_live hl
  | initWc => exact stepInitWc_eq hl ▸ .of_live hl
  | txPoll => exact .of_live hl
  | txAct => exact stepTxAct_faults hl (h.txActReady hq)
  | rxPoll => exact .of_live hl
  | rxAct => exact .of_live (stepRxAct_live hl (h.rxActReady hq))
  | ssFetch => exact .of_live (stepSsFetch_live hl)
  | ssPoll => exact .of_live hl
  | ssAct => exact stepSsAct_faults hl (h.ssActReady hq hl.1)

/-- Settles O46, state by state of the controller: the invariant rules out F3, F5 and a refused INIT. -/
theorem controllerFaultsOnlyTxDisabledOrWrap : Obligations.ControllerFaultsOnlyTxDisabledOrWrap := by
  intro s t h hp
  obtain ⟨hl, rfl⟩ := whenLive_next.mp hp
  exact controllerStep_faults h hl

/-! Who takes a byte from the receive buffer, and who puts one into the transmit buffer. -/

/-- The transmit and the receive buffer: what UDRE and RXC show (R16, R18). -/
def buffers (s : State) : Option Byte × Option Byte := (s.txbuf, s.rxbuf)

theorem buffers_eq_iff : buffers t = buffers s ↔ t.txbuf = s.txbuf ∧ t.rxbuf = s.rxbuf := by
  simp only [buffers, Prod.mk.injEq]

/-- Of the instructions, only RD_DATA reaches the receive buffer and only WR_DATA the transmit buffer. -/
theorem effect_buffers (i : Instr) (s : State) : buffers (effect i s) = buffers s ∨
    (i = .rdData ∧ (effect i s).txbuf = s.txbuf) ∨ (∃ d, i = .wrData d ∧ (effect i s).rxbuf = s.rxbuf) := by
  cases i with
  | rdData => obtain ⟨_, e⟩ | ⟨_, e⟩ := effect_rdData_cases s <;> exact .inr (.inl ⟨rfl, (congrArg State.txbuf e :)⟩)
  | wrData d =>
    obtain ⟨_, e⟩ | ⟨_, _, e⟩ | ⟨_, _, e⟩ := portWrData_cases d s <;>
      exact .inr (.inr ⟨d, rfl, (congrArg State.rxbuf e :)⟩)
  | wrControlB d => obtain ⟨_, _, e⟩ | ⟨_, e⟩ := portWrControlB_cases d s <;> exact .inl (congrArg buffers e :)
  | wrBaudHigh hi => obtain ⟨_, e⟩ | ⟨_, e⟩ := portWrBaudHigh_cases hi s <;> exact .inl (congrArg buffers e :)
  | init baud => exact .inl (by simp only [effect, acceptInit]; split <;> rfl)
  | rdStatusA => exact .inl rfl
  | rdControlB => exact .inl rfl
  | rdShared => exact .inl rfl
  | rdBaudLow => exact .inl rfl
  | wrStatusA d => exact .inl rfl
  | wrControlC c => exact .inl rfl
  | wrBaudLow d => exact .inl rfl
  | tx byte => exact .inl rfl
  | rx => exact .inl rfl
  | sendstr addr => exact .inl rfl

/-- Of the controller's steps, only RX_ACT reaches the receive buffer and only TX_ACT and SS_ACT the transmit buffer. -/
theorem controllerStep_buffers (hl : s.Live) : buffers (controllerStep s) = buffers s ∨
    (s.ctl.state = .rxAct ∧ (controllerStep s).txbuf = s.txbuf) ∨
    ((s.ctl.state = .txAct ∨ s.ctl.state = .ssAct) ∧ (controllerStep s).rxbuf = s.rxbuf) := by
  unfold controllerStep
  cases s.ctl.state with
  | idle => exact .inl rfl
  | initWh => obtain e | e | e := stepInitWh_cases hl <;> exact .inl (congrArg buffers e :)
  | initWl => exact .inl (congrArg buffers (stepInitWl_eq hl) :)
  | initWb => exact .inl (congrArg buffers (stepInitWb_eq hl) :)
  | initWc => exact .inl (congrArg buffers (stepInitWc_eq hl) :)
  | txPoll => exact .inl rfl
  | txAct =>
    obtain ⟨_, e⟩ | ⟨_, _, e⟩ | ⟨_, _, e⟩ := stepTxAct_cases hl <;>
      exact .inr (.inr ⟨.inl rfl, (congrArg State.rxbuf e :)⟩)
  | rxPoll => exact .inl rfl
  | rxAct =>
    obtain ⟨_, e⟩ | ⟨_, _, e⟩ := stepRxAct_cases hl <;> exact .inr (.inl ⟨rfl, (congrArg State.txbuf e :)⟩)
  | ssFetch => exact .inl (by simp only [stepSsFetch]; split <;> rfl)
  | ssPoll => exact .inl rfl
  | ssAct =>
    obtain ⟨_, e⟩ | ⟨_, _, e⟩ | ⟨_, _, _, e⟩ | ⟨_, _, _, e⟩ := stepSsAct_cases hl <;>
      exact .inr (.inr ⟨.inr rfl, (congrArg State.rxbuf e :)⟩)

@[simp] theorem completeTx_txbuf (s : State) : (completeTx s).txbuf = s.txbuf := by
  unfold completeTx; split <;> rfl

/-- The transmitter empties the transmit buffer or leaves it (R91). -/
theorem transmitterStep_txbuf (s : State) :
    (transmitterStep s).txbuf = none ∨ (transmitterStep s).txbuf = s.txbuf := by
  obtain ⟨_, _, _, e⟩ | ⟨_, _, _, _, _, e⟩ | ⟨_, e⟩ | ⟨_, _, e⟩ := transmitterStep_cases s <;> rw [e]
  · exact .inr (completeTx_txbuf _)
  · exact .inl rfl
  · exact .inr rfl
  · exact .inr rfl

/-- A frame never takes a byte that is held: an overrun loses the new one (R94). -/
theorem receiverStep_keeps_rxbuf {v : Byte} (hv : s.rxbuf = some v) (b : Byte) (fe : Bool) :
    (receiverStep b fe s).rxbuf = some v := by
  obtain ⟨_, e⟩ | ⟨_, _, e⟩ | ⟨_, _, hempty, _⟩ | ⟨_, _, _, _, e⟩ := receiverStep_cases b fe s
  · exact (congrArg State.rxbuf e).trans hv
  · exact (congrArg State.rxbuf e).trans hv
  · exact absurd (hv.symm.trans hempty) nofun
  · exact (congrArg State.rxbuf e).trans hv

/-- The move is a master's read of DATA: a host word, a platform access, or the controller in RX_ACT. -/
def ReadsData (s : State) (m : Move) : Prop :=
  wordOf m s = some (accessWord .data none) ∨ (m = .turn .controller ∧ s.ctl.state = .rxAct)

/-- The move is a master's write of DATA: a host word, a platform access, or the controller in TX_ACT or SS_ACT. -/
def WritesData (s : State) (m : Move) : Prop :=
  (∃ d, wordOf m s = some (accessWord .data (some d))) ∨
    (m = .turn .controller ∧ (s.ctl.state = .txAct ∨ s.ctl.state = .ssAct))

/-- Everything a move can do to the transmit buffer: only a write of DATA fills it. -/
theorem perform_txbuf (h : perform m s = .next t) : t.txbuf = none ∨ t.txbuf = s.txbuf ∨ WritesData s m := by
  cases perform_next h with
  | reset => exact .inl rfl
  | instr _ w i _ hw hi =>
    obtain hsame | ⟨-, htx⟩ | ⟨d, rfl, -⟩ := effect_buffers i s
    · exact .inr (.inl (buffers_eq_iff.mp hsame).1)
    · exact .inr (.inl htx)
    · exact .inr (.inr (.inl ⟨d, hw.trans (congrArg some (decode_ok_iff.mp hi).symm)⟩))
  | reserved => exact .inr (.inl rfl)
  | contended => exact .inr (.inl rfl)
  | elsewhere => exact .inr (.inl rfl)
  | readBusy => exact .inr (.inl rfl)
  | readResult => exact .inr (.inl (congrArg State.txbuf (readResult_footprint s) :))
  | writeMem => exact .inr (.inl rfl)
  | frame b fe => exact .inr (.inl (congrArg State.txbuf (receiverStep_footprint b fe s) :))
  | controller hl =>
    obtain hsame | ⟨-, htx⟩ | ⟨hq, -⟩ := controllerStep_buffers hl
    · exact .inr (.inl (buffers_eq_iff.mp hsame).1)
    · exact .inr (.inl htx)
    · exact .inr (.inr (.inr ⟨rfl, hq⟩))
  | transmitter => exact (transmitterStep_txbuf s).imp_right .inl

/-- Everything a move can do to a byte that is held: only a read of DATA or reset takes it. -/
theorem perform_keeps_rxbuf {v : Byte} (hv : s.rxbuf = some v) (h : perform m s = .next t) :
    t.rxbuf = some v ∨ m = .reset ∨ ReadsData s m := by
  cases perform_next h with
  | reset => exact .inr (.inl rfl)
  | instr _ w i _ hw hi =>
    obtain hsame | ⟨rfl, -⟩ | ⟨_, -, hrx⟩ := effect_buffers i s
    · exact .inl ((buffers_eq_iff.mp hsame).2.trans hv)
    · exact .inr (.inr (.inl (hw.trans (congrArg some (decode_ok_iff.mp hi).symm))))
    · exact .inl (hrx.trans hv)
  | reserved => exact .inl hv
  | contended => exact .inl hv
  | elsewhere => exact .inl hv
  | readBusy => exact .inl hv
  | readResult => exact .inl ((congrArg State.rxbuf (readResult_footprint s) :).trans hv)
  | writeMem => exact .inl hv
  | frame b fe => exact .inl (receiverStep_keeps_rxbuf hv b fe)
  | controller hl =>
    obtain hsame | ⟨hq, -⟩ | ⟨-, hrx⟩ := controllerStep_buffers hl
    · exact .inl ((buffers_eq_iff.mp hsame).2.trans hv)
    · exact .inr (.inr (.inr ⟨rfl, hq⟩))
    · exact .inl (hrx.trans hv)
  | transmitter => exact .inl ((congrArg State.rxbuf (transmitterStep_footprint s) :).trans hv)

/-! The moves that offer an access to DATA. -/

/-- A BUS16 word determines its fields (R60). -/
theorem busWord_inj {wr wr' : Bool} {r r' : RegIndex} {d d' : Byte} (h : busWord wr r d = busWord wr' r' d') :
    wr = wr' ∧ r = r' ∧ d = d' := by
  have hwr := congrArg (·.getLsbD 15) h
  have hreg := congrArg (fun w => RegIndex.ofBits (w.extractLsb' 8 3)) h
  have hdata := congrArg (fun w => w.extractLsb' 0 8) h
  simp only [busWord_write, busWord_reg, busWord_data, ofBits_bits, Option.some.injEq] at hwr hreg hdata
  exact ⟨hwr, hreg, hdata⟩

/-- An access's word determines its location and the byte it writes, if it writes one (R42). -/
theorem accessWord_inj {r r' : RegIndex} {x x' : Option Byte} (h : accessWord r x = accessWord r' x') :
    r = r' ∧ x = x' := by
  cases x with
  | none =>
    cases x' with
    | none => exact ⟨(busWord_inj (PortWord.bus.inj h)).2.1, rfl⟩
    | some d' => exact absurd (busWord_inj (PortWord.bus.inj h)).1 nofun
  | some d =>
    cases x' with
    | none => exact absurd (busWord_inj (PortWord.bus.inj h)).1 nofun
    | some d' =>
      obtain ⟨-, hreg, hdata⟩ := busWord_inj (PortWord.bus.inj h)
      exact ⟨hreg, congrArg some hdata⟩

theorem locationAt_data {p : Params} {n : Nat} (h : locationAt p n = some .data) : n = p.regAddr.data := by
  by_contra hn
  simp only [locationAt, if_neg hn] at h
  split_ifs at h <;> cases h

/-- A DATA word comes from the host's own offer or from the access at the address of DATA. -/
theorem wordOf_data {x : Option Byte} (h : wordOf m s = some (accessWord .data x)) :
    m = .offer (accessWord .data x) ∨ m = .access s.params.regAddr.data x := by
  cases m with
  | offer w => exact .inl (congrArg Move.offer (Option.some.inj h))
  | access n write =>
    obtain ⟨r, hr, hw⟩ := Option.map_eq_some_iff.mp h
    obtain ⟨rfl, rfl⟩ := accessWord_inj hw
    exact .inr (by rw [locationAt_data hr])
  | readBusy | readResult | writeMem | frame | turn | reset => cases h

/-- Settles O47: of everything a move does to the transmit buffer, only a write of DATA fills it. -/
theorem udreStable : Obligations.UdreStable := by
  intro s t m hs h hoffer haccess hturn
  obtain hnone | hsame | ⟨d, hw⟩ | ⟨hm, hq⟩ := perform_txbuf h
  · exact hnone
  · exact hsame.trans hs
  · obtain hm | hm := wordOf_data hw
    · exact absurd (decodeEncodeAgree (.wrData d)) (hoffer _ d hm)
    · exact absurd hm (haccess d)
  · obtain ⟨htx, hss⟩ := hturn hm
    exact absurd hq (not_or.mpr ⟨htx, hss⟩)

/-- Settles O48: of everything a move does to a received byte, only a read of DATA or reset takes it. -/
theorem rxcStable : Obligations.RxcStable := by
  intro s t m v hv h hoffer haccess hturn hreset
  obtain hkeep | hm | hw | ⟨hm, hq⟩ := perform_keeps_rxbuf hv h
  · exact hkeep
  · exact absurd hm hreset
  · obtain hm | hm := wordOf_data hw
    · exact absurd (decodeEncodeAgree .rdData) (hoffer _ hm)
    · exact absurd hm haccess
  · exact absurd hq (hturn hm)

end Sys2Proof.Machine
end

section
/-! PROOFS. Ownership before decode, and the result of each register-port transaction while the host owns the port
(R73 to R84, R88): the instruction's effect, written as an update of the state. -/

namespace Sys2Proof.Machine

variable {s : State}

/-- A host word that arrives while the controller is busy is contention, whether or not it decodes (R131). -/
theorem offerWord_busy (hl : s.Live) (hb : s.ctl.state ≠ .idle) (w : PortWord) :
    offerWord w s = .next (raise (contention w) s) := by
  unfold offerWord
  cases hd : decode w with
  | ok i =>
    obtain rfl : encode i = w := decode_ok_iff.mp hd
    simp only [exec_eq, whenLive_live hl, (busy_iff s).mpr hb, if_true]
  | error r =>
    cases w with
    | bus w => exact hostTransaction_busy hl hb (refuse r)
    | cmd w => exact hostCommand_busy hl hb (refuse r)

/-- Settles O8, on each port. -/
theorem ownershipBeforeDecode : Obligations.OwnershipBeforeDecode := by
  intro s hl hb
  constructor
  · intro w
    rw [perform, offerWord_busy hl hb, raise_of_live hl, contention]
  · intro w
    rw [perform, offerWord_busy hl hb, raise_of_live hl, contention]

/-- Settles O12, by whether a byte is held. -/
theorem rdDataResult : Obligations.RdDataResult := by
  intro s hs
  constructor
  · intro v hv
    rw [exec_ready hs, effect, portRdData_full hv]
    rfl
  · intro hempty
    refine ⟨Config.draw s.draws, ?_⟩
    rw [exec_ready hs, effect, portRdData_empty hempty, raise_of_live (s := (draw s).2) hs.1]
    rfl

/-- Settles O13, branch by branch of WR_DATA. -/
theorem wrDataResult : Obligations.WrDataResult := by
  intro s d hs
  rw [exec_ready hs, effect]
  obtain ⟨hoff, e⟩ | ⟨hon, hfull, e⟩ | ⟨hon, hempty, e⟩ := portWrData_cases d s
  · simp [e, hoff, raise_of_live hs.1]
  · simp [e, hon, hfull, raise_of_live hs.1]
  · simp [e, hon, hempty, setTxbuf]

/-- Settles O14: the byte of the eight flags, bit by bit. -/
theorem rdStatusAResult : Obligations.RdStatusAResult := fun s hs =>
  ⟨statusAByte s, exec_ready hs .rdStatusA, byteOfBits_bits _ _ _ _ _ _ _ _⟩

/-- Settles O15: the refusal is WR_STATUS_A's whole effect. -/
theorem wrStatusAResult : Obligations.WrStatusAResult := fun s d hs => by
  rw [exec_ready hs, effect, portWrStatusA, refuse_of_live hs.1]

/-- Settles O16: the byte of the enables, bit by bit. -/
theorem rdControlBResult : Obligations.RdControlBResult := fun s hs =>
  ⟨controlBByte s.b, exec_ready hs .rdControlB, byteOfBits_bits _ _ _ _ _ _ _ _⟩

/-- The interrupt enables of a CONTROL_B byte are its bits 7 to 5 (R24, R79). -/
theorem interruptEnables_ne_zero : ∀ d : Byte, d.extractLsb' 5 3 ≠ 0 ↔
    d.getLsbD 7 = true ∨ d.getLsbD 6 = true ∨ d.getLsbD 5 = true := by decide

/-- The refusals of a CONTROL_B write in the order of R79, bit by bit. -/
theorem controlBRefusal_eq (d : Byte) (b : ControlB) : controlBRefusal d b =
    if d.getLsbD 7 = true ∨ d.getLsbD 6 = true ∨ d.getLsbD 5 = true then some .interruptEnable
    else if d.getLsbD 2 = true then some .nineBitMode
    else if (b.rxen = true ∧ d.getLsbD 4 = false) ∨ (b.txen = true ∧ d.getLsbD 3 = false) then some .disableRxTx
    else none := by
  simp only [controlBRefusal, interruptEnables_ne_zero, Bool.or_eq_true, Bool.and_eq_true, Bool.not_eq_true']

/-- Settles O17, refusal by refusal in the order of the tests. -/
theorem wrControlBResult : Obligations.WrControlBResult := by
  intro s d hs
  rw [exec_ready hs, effect, portWrControlB, controlBRefusal_eq]
  split_ifs
  · exact congrArg _ (refuse_of_live hs.1 _)
  · exact congrArg _ (refuse_of_live hs.1 _)
  · exact congrArg _ (refuse_of_live hs.1 _)
  · rfl

/-- Settles O18: the value is the one drawn. -/
theorem rdSharedResult : Obligations.RdSharedResult := fun s hs => ⟨(draw s).1, exec_ready hs .rdShared⟩

/-- `zext_8` puts a 0 above the operand's seven bits (R64). -/
theorem zextHigh_eq_setWidth : ∀ hi : BitVec 7, zextHigh hi = hi.setWidth 8 := by decide

/-- Settles O19, by whether the operand lies inside the mask. -/
theorem wrBaudHighResult : Obligations.WrBaudHighResult := by
  intro s hi hs
  rw [exec_ready hs, effect, ← zextHigh_eq_setWidth]
  obtain ⟨hm, e⟩ | ⟨hm, e⟩ := portWrBaudHigh_cases hi s <;> rw [e]
  · rw [if_neg (not_not.mpr (beq_iff_eq.mp hm))]
    rfl
  · rw [if_pos (beq_eq_false_iff_ne.mp hm), refuse_of_live hs.1]

/-- Settles O20: the store is WR_CONTROL_C's whole effect. -/
theorem wrControlCResult : Obligations.WrControlCResult := fun _ c hs => exec_ready hs (.wrControlC c)

/-- Settles O21: the read gives the stored byte, and the store is the write's whole effect. -/
theorem baudLowResults : Obligations.BaudLowResults := fun _ hs =>
  ⟨exec_ready hs .rdBaudLow, fun d => exec_ready hs (.wrBaudLow d)⟩

end Sys2Proof.Machine
end

section
/-! PROOFS. The serial engine's steps (R89 to R94), written as updates of the state, and the stillness of the final
states (R155). -/

namespace Sys2Proof.Machine

variable {s : State}

/-- The first check of an engine step from a live state: N8, recorded, in any format but the admitted one (R89). -/
theorem whenAdmitted_of_live (hl : s.Live) (k : State → State) : whenAdmitted s k =
    if s.c = 0x06 ∧ s.b.ucsz2 = false then k s else { s with refused := some .frameNotAdmitted } := by
  simp only [whenAdmitted, admitted_iff, refuse_of_live hl, frame8n1]

theorem not_admitted_iff (s : State) : admitted s = false ↔ s.c ≠ 0x06 ∨ s.b.ucsz2 = true := by
  rw [← Bool.not_eq_true, admitted_iff, not_and_or, Bool.not_eq_false, frame8n1]

theorem transmitterStep_of_loadable {d : Byte} (ht : s.b.txen = true) (hb : s.txbuf = some d)
    (hx : s.txshift = none) : transmitterStep s = txLoad s := by
  simp [transmitterStep, txDoneEnabled, txLoadEnabled, ht, hb, hx]

theorem transmitterStep_of_shifting {e : TxEvent} (hx : s.txshift = some e) : transmitterStep s = txDone s := by
  simp [transmitterStep, txDoneEnabled, hx]

theorem transmitterStep_of_empty (hb : s.txbuf = none) (hx : s.txshift = none) : transmitterStep s = s := by
  simp [transmitterStep, txDoneEnabled, txLoadEnabled, hb, hx]

/-- TXC is set when no byte waits and kept otherwise (R92). -/
theorem completeTx_eq (s : State) :
    completeTx s = { s with a := { s.a with txc := if s.txbuf = none then true else s.a.txc } } := by
  simp only [completeTx, Option.isNone_iff_eq_none]
  split_ifs <;> rfl

/-- Settles O35: with a byte waiting and the shift stage empty the transmitter's step is TX_LOAD, which moves that
byte. -/
theorem txLoadStep : Obligations.TxLoadStep := by
  intro s d hl ht hb hx
  rw [perform, whenLive_live hl, agentStep, transmitterStep_of_loadable ht hb hx, txLoad, whenAdmitted_of_live hl, hb]
  rfl

/-- Settles O36: with an event in the shift stage the transmitter's step is TX_DONE. -/
theorem txDoneStep : Obligations.TxDoneStep := by
  intro s e hl hx
  rw [perform, whenLive_live hl, agentStep, transmitterStep_of_shifting hx, txDone, whenAdmitted_of_live hl, hx]
  simp only [completeTx_eq]
  rfl

/-- Settles O37, branch by branch of the receiver. -/
theorem rxFrameStep : Obligations.RxFrameStep := by
  intro s b fe hl
  rw [perform, whenLive_live hl]
  simp only [← not_admitted_iff]
  obtain ⟨hoff, e⟩ | ⟨hon, ha, e⟩ | ⟨hon, ha, hempty, e⟩ | ⟨v, hon, ha, hfull, e⟩ := receiverStep_cases b fe s <;>
    rw [e]
  · rw [if_pos hoff]
  · simp [hon, ha, refuse_of_live hl]
  · simp [hon, ha, hempty, frameErrors, setFlags, setRxbuf]
  · simp [hon, ha, hfull, raise, setFlags, hl.1]

theorem State.Final.live (h : s.Final) : s.Live := ⟨h.noFault, h.notRefused⟩

theorem controllerStep_of_idle (h : s.ctl.state = .idle) : controllerStep s = s := by
  simp only [controllerStep, h]

/-- Settles O54: the controller is IDLE, and nothing waits or shifts in the transmitter. -/
theorem finalStateIsStill : Obligations.FinalStateIsStill := by
  intro s h
  refine ⟨?_, ?_, h.live, h.idle⟩
  · rw [perform, whenLive_live h.live, agentStep, controllerStep_of_idle h.idle]
  · rw [perform, whenLive_live h.live, agentStep, transmitterStep_of_empty h.bufferEmpty h.shiftEmpty]

end Sys2Proof.Machine
end

section
/-! PROOFS. The nominal rate of the divisor INIT computes (R97). -/

namespace Sys2Proof.Machine

/-- A divisor INIT computes is one less than the floor quotient: no bit is lost where it is stored in 16 bits (R101). -/
theorem divisor_quotient {p : Params} {b : Nat} {d : Divisor} (h : divisor p b = .ok d) :
    b ≠ 0 ∧ d.toNat + 1 = p.fClk / (16 * b) := by
  have hmax : divmax p < 65536 := by have := p.ubrrhMask.isLt; unfold divmax; omega
  simp only [divisor] at h
  split_ifs at h with hb hq hrange
  obtain rfl := Except.ok.inj h
  refine ⟨hb, ?_⟩
  rw [BitVec.toNat_ofNat]
  generalize p.fClk / (16 * b) = q at hq hrange
  omega

/-- Settles O25: `d + 1` is the floor quotient of `f_clk` by `16 b`. -/
theorem nominalRateBounds : Obligations.NominalRateBounds := by
  intro p b d _ h
  obtain ⟨hb, hq⟩ := divisor_quotient h
  have rate : ∀ k, 16 * k * b = 16 * b * k := fun k => Nat.mul_right_comm 16 k b
  rw [rate, rate, hq, show d.toNat + 2 = p.fClk / (16 * b) + 1 by omega]
  exact ⟨Nat.mul_div_le _ _, Nat.lt_mul_div_succ _ (by omega), fun hdvd => (Nat.mul_div_cancel' hdvd).symm⟩

end Sys2Proof.Machine
end

section
/-! PROOFS. A whole Receive (R113 to R115): the moves of a schedule one after the other, from RX's acceptance to the
act. -/

namespace Sys2Proof.Machine

variable {s t : State}

/-- The first move of a schedule, and then the rest of it. -/
theorem core_run_cons {m : Move} {l : List Move} (n : Nat) (h : perform m s = .next t) :
    core.run (n + 1) (setSchedule (m :: l) s) = core.run n (setSchedule l t) :=
  core_run_succ n ((step_scheduled rfl).trans (perform_setSchedule (s := s) l h))

theorem perform_offer_encode (h : s.HostReady) (i : Instr) : perform (.offer (encode i)) s = .next (effect i s) :=
  (offerWord_decoded (decodeEncodeAgree i) s).trans (exec_ready h i)

theorem perform_controller (h : s.Live) : perform (.turn .controller) s = .next (controllerStep s) :=
  whenLive_live h _

/-- RX_POLL with nothing received polls again (R114). -/
theorem perform_rxPoll_waits (hl : s.Live) (hq : s.ctl.state = .rxPoll) (hb : s.rxbuf = none) :
    perform (.turn .controller) s = .next s := by
  have hstay : goto .rxPoll s = s := by rw [goto, ← hq]; rfl
  simpa [controllerStep, hq, stepRxPoll, stepPoll_eq, rxc, hb, hstay] using perform_controller hl

/-- RX_POLL with a byte received goes on to the act (R114). -/
theorem perform_rxPoll_ready (hl : s.Live) (hq : s.ctl.state = .rxPoll) {v : Byte} (hb : s.rxbuf = some v) :
    perform (.turn .controller) s = .next (goto .rxAct s) := by
  simpa [controllerStep, hq, stepRxPoll, stepPoll_eq, rxc, hb] using perform_controller hl

/-- RX_ACT takes the received byte and holds it as the result (R115). -/
theorem perform_rxAct (hl : s.Live) (hq : s.ctl.state = .rxAct) {v : Byte} (hb : s.rxbuf = some v) :
    perform (.turn .controller) s = .next
      (setCtl { s.ctl with result := some v, state := .idle } (setFlags (clearErrors s.a) (setRxbuf none s))) := by
  rw [perform_controller hl, controllerStep, hq]
  obtain ⟨hempty, _⟩ | ⟨w, hw, e⟩ := stepRxAct_cases hl
  · exact absurd (hb.symm.trans hempty) nofun
  · obtain rfl : v = w := Option.some.inj (hb.symm.trans hw)
    exact congrArg _ e

/-- A frame of the admitted format that finds the receive buffer empty fills it (R94). -/
theorem perform_frame_accepted (hl : s.Live) (hr : s.b.rxen = true) (hc : s.c = 0x06) (hu : s.b.ucsz2 = false)
    (hb : s.rxbuf = none) (v : Byte) (fe : Bool) :
    perform (.frame v fe) s = .next (setFlags (frameErrors fe s.a) (setRxbuf (some v) s)) := by
  rw [rxFrameStep s v fe hl, if_neg (by simp [hr]), if_neg (by simp [hc, hu]), if_pos hb]
  rfl

/-- Settles O57, move by move: RX is accepted, RX_POLL finds nothing, the frame is buffered, RX_POLL finds it and RX_ACT
returns it. -/
theorem receiveReturnsFrameByte : Obligations.ReceiveReturnsFrameByte := by
  intro s v fe rest hs hr hc hu hb
  have haccept := perform_offer_encode hs .rx
  have hwait := perform_rxPoll_waits (s := effect .rx s) hs.1 rfl hb
  have hframe := perform_frame_accepted (s := effect .rx s) hs.1 hr hc hu hb v fe
  have hfound := perform_rxPoll_ready (s := setFlags (frameErrors fe s.a) (setRxbuf (some v) (effect .rx s)))
    hs.1 rfl rfl
  have hact := perform_rxAct (s := goto .rxAct (setFlags (frameErrors fe s.a) (setRxbuf (some v) (effect .rx s))))
    hs.1 rfl rfl
  have hrun := (core_run_cons 4 haccept).trans <| (core_run_cons 3 hwait).trans <| (core_run_cons 2 hframe).trans <|
    (core_run_cons 1 hfound).trans <| core_run_cons (l := rest) 0 hact
  exact ⟨_, hrun, rfl, rfl, rfl, hs.1, rfl⟩

end Sys2Proof.Machine
end

section
/-! PROOFS. Progress (R124): in a run whose controller is never IDLE, the number of turns its command still needs falls
with every turn of the controller that is not spent waiting on a poll. -/

namespace Sys2Proof.Machine

/-! What a move can do while the controller is busy, if the run goes on after it. -/

section
variable {s t : State} {m : Move}

/-- A host word would be contention, so no move offers one (R88, R102). -/
theorem perform_busy_wordOf (hb : s.ctl.state ≠ .idle) (hm : m ≠ .reset) (ht : t.Live) (h : perform m s = .next t) :
    wordOf m s = none := by
  cases perform_next h with
  | reset => exact absurd rfl hm
  | instr _ _ _ hr => exact absurd hr.2 hb
  | reserved _ _ _ hr => exact absurd hr.2 hb
  | contended _ _ f => exact absurd ht (raise_not_live f s)
  | elsewhere n w _ hn => simp [wordOf, hn]
  | readBusy | readResult | writeMem | frame | controller | transmitter => rfl

/-- Without a host word, only the controller's own turn and reset move the controller. -/
theorem perform_ctl (hm : m ≠ .reset) (hw : wordOf m s = none) (h : perform m s = .next t) :
    m = .turn .controller ∨ t.ctl = s.ctl := by
  cases perform_next h with
  | reset => exact absurd rfl hm
  | instr _ _ _ _ hw' => exact absurd (hw.symm.trans hw') nofun
  | reserved _ _ _ _ hw' => exact absurd (hw.symm.trans hw') nofun
  | contended | elsewhere | readBusy | writeMem => exact .inr rfl
  | readResult => exact .inr (congrArg State.ctl (readResult_footprint s) :)
  | frame b fe => exact .inr (congrArg State.ctl (receiverStep_footprint b fe s) :)
  | controller => exact .inl rfl
  | transmitter => exact .inr (congrArg State.ctl (transmitterStep_footprint s) :)

/-- The controller is in a WAIT_READY state with the flag it polls clear (R111, R114, R118). -/
def Waits (s : State) : Prop :=
  (s.ctl.state = .rxPoll ∧ s.rxbuf = none) ∨ ((s.ctl.state = .txPoll ∨ s.ctl.state = .ssPoll) ∧ s.txbuf ≠ none)

/-- Only a master clears the flags, and a controller that polls is none, so a wait does not begin in a poll state
(R85, R86). -/
theorem Waits.of_perform (hm : m ≠ .reset) (hw : wordOf m s = none) (h : perform m s = .next t)
    (hctl : t.ctl = s.ctl) (ht : Waits t) : Waits s := by
  rw [Waits, hctl] at ht
  obtain ⟨hq, hb⟩ | ⟨hq, hb⟩ := ht
  · refine .inl ⟨hq, ?_⟩
    cases hs : s.rxbuf with
    | none => rfl
    | some v =>
      obtain hkeep | hreset | hread | ⟨-, hact⟩ := perform_keeps_rxbuf hs h
      · exact absurd (hb.symm.trans hkeep) nofun
      · exact absurd hreset hm
      · exact absurd (hw.symm.trans hread) nofun
      · exact absurd (hq.symm.trans hact) nofun
  · refine .inr ⟨hq, fun hs => ?_⟩
    obtain hnone | hsame | ⟨d, hwrite⟩ | ⟨-, hact⟩ := perform_txbuf h
    · exact hb hnone
    · exact hb (hsame.trans hs)
    · exact absurd (hw.symm.trans hwrite) nofun
    · obtain hq | hq := hq <;> simp [hq] at hact

/-- A bound on the turns the controller's command still needs, those spent waiting not counted: for SendString three a
byte, up to the end of the address space (R119). -/
def turnsLeft (c : Controller) : Nat :=
  match c.state with
  | .idle => 0
  | .initWh => 4
  | .initWl => 3
  | .initWb => 2
  | .initWc => 1
  | .txPoll | .rxPoll => 2
  | .txAct | .rxAct => 1
  | .ssFetch => 3 * (65536 - c.addr.toNat)
  | .ssPoll => 3 * (65536 - c.addr.toNat) - 1
  | .ssAct => 3 * (65536 - c.addr.toNat) - 2

/-- A turn of a busy controller is spent waiting, brings its command nearer to the end, or stops with a fault or a
refusal. -/
theorem controllerStep_waits_or_progresses (hl : s.Live) (hb : s.ctl.state ≠ .idle) :
    (Waits s ∧ (controllerStep s).ctl = s.ctl) ∨ turnsLeft (controllerStep s).ctl < turnsLeft s.ctl ∨
      ¬ (controllerStep s).Live := by
  have haddr : s.ctl.addr.toNat < 65536 := s.ctl.addr.isLt
  unfold controllerStep
  cases hq : s.ctl.state with
  | idle => exact absurd hq hb
  | initWh =>
    obtain e | e | e := stepInitWh_cases hl
    · exact .inr (.inl (by simp [e, turnsLeft, hq]))
    · exact .inr (.inl (by simp [e, turnsLeft, hq]))
    · exact .inr (.inr (e ▸ refuse_not_live _ s))
  | initWl => exact .inr (.inl (by simp [stepInitWl_eq hl, turnsLeft, hq]))
  | initWb => exact .inr (.inl (by simp [stepInitWb_eq hl, turnsLeft, hq]))
  | initWc => exact .inr (.inl (by simp [stepInitWc_eq hl, turnsLeft, hq]))
  | txPoll =>
    cases hx : s.txbuf with
    | none => exact .inr (.inl (by simp [stepTxPoll, stepPoll_eq, udre, hx, turnsLeft, hq]))
    | some d => exact .inl ⟨.inr ⟨.inl hq, by simp [hx]⟩, by simp [stepTxPoll, stepPoll_eq, udre, hx, ← hq]⟩
  | txAct =>
    obtain ⟨_, e⟩ | ⟨_, _, e⟩ | ⟨_, _, e⟩ := stepTxAct_cases hl
    · exact .inr (.inr (e ▸ raise_not_live _ s))
    · exact .inr (.inr (e ▸ raise_not_live _ s))
    · exact .inr (.inl (by simp [e, turnsLeft, hq]))
  | rxPoll =>
    cases hx : s.rxbuf with
    | none => exact .inl ⟨.inl ⟨hq, hx⟩, by simp [stepRxPoll, stepPoll_eq, rxc, hx, ← hq]⟩
    | some v => exact .inr (.inl (by simp [stepRxPoll, stepPoll_eq, rxc, hx, turnsLeft, hq]))
  | rxAct =>
    obtain ⟨_, e⟩ | ⟨_, _, e⟩ := stepRxAct_cases hl
    · exact .inr (.inr (e ▸ raise_not_live _ _))
    · exact .inr (.inl (by simp [e, turnsLeft, hq]))
  | ssFetch =>
    refine .inr (.inl ?_)
    simp only [stepSsFetch]
    split <;> simp [turnsLeft, hq, haddr]
  | ssPoll =>
    cases hx : s.txbuf with
    | none =>
      refine .inr (.inl ?_)
      simp only [turnsLeft, stepSsPoll, stepPoll_eq, udreBit_statusA, udre, hx, Option.isNone_none, if_true, goto_ctl,
        hq]
      omega
    | some d => exact .inl ⟨.inr ⟨.inr hq, by simp [hx]⟩, by simp [stepSsPoll, stepPoll_eq, udre, hx, ← hq]⟩
  | ssAct =>
    obtain ⟨_, e⟩ | ⟨_, _, e⟩ | ⟨_, _, _, e⟩ | ⟨_, _, ha, e⟩ := stepSsAct_cases hl
    · exact .inr (.inr (e ▸ raise_not_live _ s))
    · exact .inr (.inr (e ▸ raise_not_live _ s))
    · exact .inr (.inr (e ▸ raise_not_live _ _))
    · refine .inr (.inl ?_)
      simp only [turnsLeft, e, setCtl_ctl, hq]
      bv_omega

/-- A turn of the transmitter with an event in the shift stage empties the stage, or is refused (R92). -/
theorem transmitterStep_frees_shift (hx : s.txshift ≠ none) :
    (transmitterStep s).txshift = none ∨ ¬ (transmitterStep s).Live := by
  obtain ⟨_, _, _, e⟩ | ⟨_, hnone, _⟩ | ⟨_, e⟩ | ⟨hnone, _⟩ := transmitterStep_cases s
  · exact .inl (by rw [e, completeTx_txshift, setTxshift_txshift])
  · exact absurd hnone hx
  · exact .inr (e ▸ refuse_not_live _ s)
  · exact absurd hnone hx

/-- A turn of an enabled transmitter with the shift stage empty empties the buffer, or is refused (R91). -/
theorem transmitterStep_frees_buffer (hx : s.txshift = none) (hen : s.b.txen = true) :
    (transmitterStep s).txbuf = none ∨ ¬ (transmitterStep s).Live := by
  obtain ⟨_, hsome, _⟩ | ⟨_, _, _, _, _, e⟩ | ⟨_, e⟩ | ⟨_, hoff | hnone, e⟩ := transmitterStep_cases s
  · exact absurd (hx.symm.trans hsome) nofun
  · exact .inl (congrArg State.txbuf e)
  · exact .inr (e ▸ refuse_not_live _ s)
  · exact absurd (hen.symm.trans hoff) nofun
  · exact .inl ((congrArg State.txbuf e).trans hnone)

end

/-! Along a run that is never reset: the transmitter. -/

section
variable {states : Nat → State} {moves : Nat → Move}

/-- The invariant holds along a run from a state that meets it. -/
theorem IsRun.inv (h : IsRun states moves) (h0 : (states 0).Inv) (n : Nat) : (states n).Inv := by
  induction n with
  | zero => exact h0
  | succ n ih => exact perform_inv ih (h.next n)

theorem IsRun.turn (h : IsRun states moves) {n : Nat} {g : Agent} (hm : moves n = .turn g) :
    states (n + 1) = agentStep g (states n) :=
  (whenLive_next.mp ((congrArg (perform · (states n)) hm).symm.trans (h.next n))).2

variable (hm : ∀ n, moves n ≠ .reset)
include hm

theorem IsRun.shift_freed (h : IsRun states moves) {n : Nat} (hx : (states n).txshift ≠ none)
    (hturn : moves n = .turn .transmitter) : (states (n + 1)).txshift = none := by
  have e : states (n + 1) = transmitterStep (states n) := h.turn hturn
  exact e ▸ (transmitterStep_frees_shift hx).resolve_right (not_not.mpr (e ▸ h.live (hm (n + 1))))

theorem IsRun.buffer_freed (h : IsRun states moves) {n : Nat} (hx : (states n).txshift = none)
    (hen : (states n).b.txen = true) (hturn : moves n = .turn .transmitter) : (states (n + 1)).txbuf = none := by
  have e : states (n + 1) = transmitterStep (states n) := h.turn hturn
  exact e ▸ (transmitterStep_frees_buffer hx hen).resolve_right (not_not.mpr (e ▸ h.live (hm (n + 1))))

/-- A weakly fair TX_DONE empties the shift stage again and again (R92, R93). -/
theorem IsRun.shift_empties (h : IsRun states moves) (hdone : WeaklyFair .txDone states moves) (n : Nat) :
    ∃ m, n ≤ m ∧ (states m).txshift = none := by
  by_contra hheld
  push Not at hheld
  obtain ⟨m, hnm, hturn⟩ := hdone n fun m hnm => by
    simp [FairStep.enabled, (live_iff _).mpr (h.live (hm m)), txDoneEnabled, Option.isSome_iff_ne_none, hheld m hnm]
  exact hheld (m + 1) (by omega) (h.shift_freed hm (hheld m hnm) hturn)

/-- A weakly fair transmitter empties its buffer again and again (R91, R93): were the buffer full from some point on,
TX_LOAD would stay enabled once the shift stage is empty, and then empty the buffer. -/
theorem FairRun.buffer_empties (h : FairRun states moves) (h0 : (states 0).Inv)
    (hc : (states 0).params.txClockRuns = true) (n : Nat) : ∃ m, n ≤ m ∧ (states m).txbuf = none := by
  by_contra hfull
  push Not at hfull
  obtain ⟨hload, hdone⟩ := h.transmitter hc
  have hen : ∀ m, n ≤ m → (states m).b.txen = true := fun m hnm => (h.run.inv h0 m).txEnabled (.inl (hfull m hnm))
  obtain ⟨j, hnj, hshift⟩ := h.run.shift_empties hm hdone n
  have hkeep : ∀ m, j ≤ m → (states m).txshift = none →
      (states (m + 1)).txshift = none ∨ (states (m + 1)).txbuf = none := fun m hjm hx => by
    by_cases hturn : moves m = .turn .transmitter
    · exact .inr (h.run.buffer_freed hm hx (hen m (by omega)) hturn)
    · exact .inl ((lineFields_eq_iff.mp (perform_lineFields (hm m) hturn (h.run.next m))).2.1.trans hx)
  have henabled : ∀ m, j ≤ m → (states m).txshift = none → FairStep.txLoad.enabled (states m) = true :=
    fun m hjm hx => by
      simp [FairStep.enabled, (live_iff _).mpr (h.run.live (hm m)), txLoadEnabled, hen m (by omega), hx,
        Option.isSome_iff_ne_none, hfull m (by omega)]
  obtain ⟨m, hjm, hempty⟩ := hload.leads_to (·.txshift = none) (·.txbuf = none) hshift hkeep henabled
    fun m hjm hx => h.run.buffer_freed hm hx (hen m (by omega))
  exact hfull m (by omega) hempty

end

/-! Along a run whose controller is never IDLE: the controller. -/

section
variable {states : Nat → State} {moves : Nat → Move} (hb : ∀ n, (states n).ctl.state ≠ .idle)
include hb

/-- There is no reset, for it leads to IDLE (R143). -/
theorem IsRun.not_reset_of_busy (h : IsRun states moves) (n : Nat) : moves n ≠ .reset := fun hm => by
  have e : Host.Outcome.next (resetBlock (states n)) = .next (states (n + 1)) :=
    (congrArg (perform · (states n)) hm).symm.trans (h.next n)
  exact hb (n + 1) (Host.Outcome.next.inj e ▸ rfl)

theorem IsRun.live_of_busy (h : IsRun states moves) (n : Nat) : (states n).Live := h.live (h.not_reset_of_busy hb n)

theorem IsRun.wordOf_of_busy (h : IsRun states moves) (n : Nat) : wordOf (moves n) (states n) = none :=
  perform_busy_wordOf (hb n) (h.not_reset_of_busy hb n) (h.live_of_busy hb (n + 1)) (h.next n)

/-- No turn of the controller stops it, so each is spent waiting or brings its command nearer to the end. -/
theorem IsRun.controller_turn_of_busy (h : IsRun states moves) {n : Nat} (hturn : moves n = .turn .controller) :
    (Waits (states n) ∧ (states (n + 1)).ctl = (states n).ctl) ∨
      turnsLeft (states (n + 1)).ctl < turnsLeft (states n).ctl := by
  have e : states (n + 1) = controllerStep (states n) := h.turn hturn
  have hlive := h.live_of_busy hb (n + 1)
  rw [e] at hlive ⊢
  obtain hwaits | hless | hstop := controllerStep_waits_or_progresses (h.live_of_busy hb n) (hb n)
  · exact .inl hwaits
  · exact .inr hless
  · exact absurd hlive hstop

/-- From the point with the fewest turns left on, the controller's registers stand still and its turns are spent
waiting. -/
theorem IsRun.still_of_busy (h : IsRun states moves) : ∃ n, ∀ m, n ≤ m →
    (states m).ctl = (states n).ctl ∧ (moves m = .turn .controller → Waits (states m)) := by
  obtain ⟨n, hleast⟩ : ∃ n, ∀ m, turnsLeft (states n).ctl ≤ turnsLeft (states m).ctl :=
    ⟨_, fun m => Function.argmin_le (fun n => turnsLeft (states n).ctl) m⟩
  have hturn : ∀ m, (states m).ctl = (states n).ctl → moves m = .turn .controller →
      Waits (states m) ∧ (states (m + 1)).ctl = (states m).ctl := fun m hctl hmove =>
    (h.controller_turn_of_busy hb hmove).resolve_right (Nat.not_lt.mpr (hctl ▸ hleast (m + 1)))
  have hstill : ∀ m, n ≤ m → (states m).ctl = (states n).ctl := fun m hnm => by
    induction m, hnm using Nat.le_induction with
    | base => rfl
    | succ m _ ih =>
      obtain hmove | hsame := perform_ctl (h.not_reset_of_busy hb m) (h.wordOf_of_busy hb m) (h.next m)
      · exact (hturn m ih hmove).2.trans ih
      · exact hsame.trans ih
  exact ⟨n, fun m hnm => ⟨hstill m hnm, fun hmove => (hturn m (hstill m hnm) hmove).1⟩⟩

/-- A weakly fair controller that is never IDLE comes to wait for ever in one poll state: once its
registers stand still, a later turn always finds it waiting, and no wait begins. -/
theorem FairRun.waits_of_busy (h : FairRun states moves) :
    ∃ n, ∀ m, n ≤ m → Waits (states m) ∧ (states m).ctl = (states n).ctl := by
  obtain ⟨n, hstill⟩ := h.run.still_of_busy hb
  have hback : ∀ m k, n ≤ m → m ≤ k → Waits (states k) → Waits (states m) := fun m k hnm hmk => by
    induction k, hmk using Nat.le_induction with
    | base => exact id
    | succ k hmk ih =>
      have hctl := (hstill (k + 1) (by omega)).1.trans (hstill k (by omega)).1.symm
      exact fun hw => ih
        (hw.of_perform (h.run.not_reset_of_busy hb k) (h.run.wordOf_of_busy hb k) (h.run.next k) hctl)
  refine ⟨n, fun m hnm => ⟨?_, (hstill m hnm).1⟩⟩
  obtain ⟨k, hmk, hmove⟩ := h.controller m fun k _ => by
    simp [FairStep.enabled, (live_iff _).mpr (h.run.live_of_busy hb k), (busy_iff _).mpr (hb k)]
  exact hback m k hnm hmk ((hstill k (by omega)).2 hmove)

end

/-- Settles O60: a controller that is never IDLE comes to wait for ever in one poll state; on the transmit buffer only
where the transmit clock does not run, since a weakly fair transmitter empties the buffer. -/
theorem commandsEndOrPollForEver : Obligations.CommandsEndOrPollForEver := by
  intro states moves h h0
  by_cases hidle : ∃ n, (states n).ctl.state = .idle
  · exact .inl hidle
  have hb := not_exists.mp hidle
  obtain ⟨n, hwaits⟩ := h.waits_of_busy hb
  by_cases hq : (states n).ctl.state = .rxPoll
  · refine .inr (.inl ⟨n, fun m hm => ?_⟩)
    obtain ⟨hw, hctl⟩ := hwaits m hm
    obtain hrx | ⟨htx, -⟩ := hw
    · exact hrx
    · simp [hctl, hq] at htx
  · have hfull : ∀ m, n ≤ m →
        ((states m).ctl.state = .txPoll ∨ (states m).ctl.state = .ssPoll) ∧ (states m).txbuf ≠ none := fun m hm => by
      obtain ⟨hw, hctl⟩ := hwaits m hm
      exact hw.resolve_left fun hrx => hq (hctl ▸ hrx.1)
    refine .inr (.inr ⟨Bool.eq_false_iff.mpr fun hc => ?_, n, hfull⟩)
    obtain ⟨m, hm, hempty⟩ := h.buffer_empties (h.run.not_reset_of_busy hb) h0 hc n
    exact (hfull m hm).2 hempty

end Sys2Proof.Machine
end

section
/-! PROOFS. The controller commands (R101 to R119, R122): the divisor, the acceptance of each command and its frame, the
controller's steps as updates of the state, and a whole INIT. -/

namespace Sys2Proof.Machine

variable {s t : State}

/-! Acceptance. -/

/-- Settles O24, branch by branch of the divisor. -/
theorem divisorComputation : Obligations.DivisorComputation := by
  intro p b hp
  refine ⟨fun hb => ?_, fun hb hq => ?_, fun hb hq hmax => ?_, fun hb hq hmax => ?_, Nat.div_div_eq_div_mul _ 16 b⟩
  · rw [divisor, if_pos hb]
  · rw [divisor, if_neg hb, if_pos hq]
  · rw [divisor, if_neg hb, if_neg hq, if_pos (show divmax p < _ from hmax)]
  · have hok : divisor p b = .ok (BitVec.ofNat 16 (p.fClk / (16 * b) - 1)) := by
      rw [divisor, if_neg hb, if_neg hq, if_neg (show ¬ divmax p < _ from Nat.not_lt.mpr hmax)]
    have hquot := (divisor_quotient hok).2
    exact ⟨_, hok, by omega, beq_iff_eq.mp (divisor_loadable hp hok)⟩

theorem acceptInit_of_divisor {baud : Baud} {d : Divisor} (h : divisor s.params baud.toNat = .ok d) :
    acceptInit baud s = setCtl { s.ctl with div := d, state := .initWh } s := by
  simp only [acceptInit, baudRate, h]

theorem acceptInit_of_fault {baud : Baud} {f : FaultCode} (h : divisor s.params baud.toNat = .error f) :
    acceptInit baud s = raise f s := by
  simp only [acceptInit, baudRate, h]

/-- Settles O26, by the outcome of the divisor computation. -/
theorem initAcceptance : Obligations.InitAcceptance := by
  intro s baud hs
  constructor
  · intro d hd
    rw [exec_ready hs, effect, acceptInit_of_divisor hd, setCtl]
  · intro f hf
    rw [exec_ready hs, effect, acceptInit_of_fault hf, raise_of_live hs.1]

/-- Settles O27: the acceptance is each command's whole effect. -/
theorem transferAcceptance : Obligations.TransferAcceptance := fun _ hs =>
  ⟨fun byte => exec_ready hs (.tx byte), exec_ready hs .rx, fun addr => exec_ready hs (.sendstr addr)⟩

theorem init_frame {baud : Baud} (h : exec (.init baud) s = .next t) :
    t = { s with ctl := { s.ctl with state := t.ctl.state, div := t.ctl.div }, faults := t.faults } := by
  obtain rfl | ⟨f, rfl⟩ := exec_effect_or_raise h
  · cases hd : divisor s.params baud.toNat with
    | ok d => rw [effect, acceptInit_of_divisor hd]; rfl
    | error f => rw [effect, acceptInit_of_fault hd]; rfl
  · rfl

theorem tx_frame {byte : Byte} (h : exec (.tx byte) s = .next t) :
    t = { s with ctl := { s.ctl with state := t.ctl.state, byte := t.ctl.byte }, faults := t.faults } := by
  obtain rfl | ⟨f, rfl⟩ := exec_effect_or_raise h
  · rfl
  · rfl

theorem rx_frame (h : exec .rx s = .next t) :
    t = { s with ctl := { s.ctl with state := t.ctl.state, result := t.ctl.result }, faults := t.faults } := by
  obtain rfl | ⟨f, rfl⟩ := exec_effect_or_raise h
  · rfl
  · rfl

theorem sendstr_frame {addr : Addr} (h : exec (.sendstr addr) s = .next t) :
    t = { s with ctl := { s.ctl with state := t.ctl.state, addr := t.ctl.addr }, faults := t.faults } := by
  obtain rfl | ⟨f, rfl⟩ := exec_effect_or_raise h
  · rfl
  · rfl

/-- Settles O28, command by command. -/
theorem commandFrame : Obligations.CommandFrame :=
  ⟨fun _ _ _ h => ⟨init_frame h, exec_memRead h⟩, fun _ _ _ h => ⟨tx_frame h, exec_memRead h⟩,
    fun _ _ h => ⟨rx_frame h, exec_memRead h⟩, fun _ _ _ h => ⟨sendstr_frame h, exec_memRead h⟩⟩

/-! The controller's steps. -/

/-- INIT_WH writes the high byte of a loadable divisor (R106). -/
theorem perform_initWh (hl : s.Live) (hq : s.ctl.state = .initWh) (hp : s.params.Valid)
    (hmask : insideMask s.params (highByte s.ctl.div) = true) :
    perform (.turn .controller) s = .next (goto .initWl (setBaudHigh (highByte s.ctl.div) s)) := by
  rw [perform_controller hl, controllerStep, hq, stepInitWh_eq hl hp hmask]

/-- INIT_WL writes the low byte of the divisor (R107). -/
theorem perform_initWl (hl : s.Live) (hq : s.ctl.state = .initWl) :
    perform (.turn .controller) s = .next (goto .initWb (setBaudLow (lowByte s.ctl.div) s)) := by
  rw [perform_controller hl, controllerStep, hq, stepInitWl_eq hl]

/-- INIT_WB sets both enables (R108). -/
theorem perform_initWb (hl : s.Live) (hq : s.ctl.state = .initWb) :
    perform (.turn .controller) s = .next (goto .initWc (setEnables (storeEnables 0x18 s.b) s)) := by
  rw [perform_controller hl, controllerStep, hq, stepInitWb_eq hl]

/-- INIT_WC stores 8-N-1 and ends the command (R109). -/
theorem perform_initWc (hl : s.Live) (hq : s.ctl.state = .initWc) :
    perform (.turn .controller) s = .next (goto .idle (setFormat 0x06 s)) := by
  rw [perform_controller hl, controllerStep, hq, stepInitWc_eq hl]

/-- Settles O29, step by step. -/
theorem initWriteSteps : Obligations.InitWriteSteps := fun _ hl =>
  ⟨fun hq hmask hp => perform_initWh hl hq hp (beq_iff_eq.mpr hmask), perform_initWl hl, perform_initWb hl,
    perform_initWc hl⟩

/-- Settles O31: the flag polled is UDRE or RXC, which say whether a buffer is empty. -/
theorem pollSteps : Obligations.PollSteps := by
  intro s hl
  refine ⟨fun hq => ?_, fun hq => ?_, fun hq => ?_⟩ <;> rw [perform_controller hl, controllerStep, hq]
  · simp only [stepTxPoll, stepPoll_eq, udreBit_statusA, udre_iff, goto, setCtl]
  · simp only [stepRxPoll, stepPoll_eq, rxcBit_statusA, rxc, goto, setCtl]
    cases s.rxbuf <;> rfl
  · simp only [stepSsPoll, stepPoll_eq, udreBit_statusA, udre_iff, goto, setCtl]

theorem portWrData_of_disabled (ht : s.b.txen = false) (d : Byte) : portWrData d s = raise .txDisabled s := by
  simp [portWrData, ht]

theorem portWrData_of_ready (ht : s.b.txen = true) (hb : s.txbuf = none) (d : Byte) :
    portWrData d s = setTxbuf (some d) s := by
  simp [portWrData, ht, hb]

/-- Settles O33: F4 cuts the act short at its write. -/
theorem actRaisesTxDisabled : Obligations.ActRaisesTxDisabled := by
  intro s hl hq hoff
  rw [perform_controller hl, controllerStep, ← raise_of_live hl]
  obtain hq | hq := hq
  · simp only [hq, stepTxAct, portWrData_of_disabled hoff, andThen_raise]
  · simp only [hq, stepSsAct, portWrData_of_disabled hoff, andThen_raise]

/-- TX_ACT where its write is permitted (R112). -/
theorem stepTxAct_of_ready (hl : s.Live) (ht : s.b.txen = true) (hb : s.txbuf = none) :
    stepTxAct s = goto .idle (setTxbuf (some s.ctl.byte) s) := by
  rw [stepTxAct, portWrData_of_ready ht hb, andThen_live (s := setTxbuf (some s.ctl.byte) s) hl]

/-- SS_ACT where its write is permitted (R119). -/
theorem stepSsAct_of_ready (hl : s.Live) (ht : s.b.txen = true) (hb : s.txbuf = none) :
    stepSsAct s = if s.ctl.addr = 0xFFFF then raise .stringWrap (setTxbuf (some s.ctl.byte) s)
      else setCtl { s.ctl with addr := s.ctl.addr + 1, state := .ssFetch } (setTxbuf (some s.ctl.byte) s) := by
  rw [stepSsAct, portWrData_of_ready ht hb, andThen_live (s := setTxbuf (some s.ctl.byte) s) hl]
  rfl

/-- Settles O32, step by step. -/
theorem actSteps : Obligations.ActSteps := by
  intro s hl
  refine ⟨fun hq ht hb => ?_, fun v hq hb => perform_rxAct hl hq hb, fun hq hzero => ?_, fun hq hbyte => ?_,
    fun hq ht hb haddr => ?_, fun hq ht hb haddr => ?_⟩ <;> rw [perform_controller hl, controllerStep, hq]
  · exact congrArg _ (stepTxAct_of_ready hl ht hb)
  · exact congrArg _ (if_pos hzero)
  · exact congrArg _ (if_neg hbyte)
  · exact congrArg _ ((stepSsAct_of_ready hl ht hb).trans (if_neg haddr))
  · rw [stepSsAct_of_ready hl ht hb, if_pos haddr, raise_of_live (s := setTxbuf (some s.ctl.byte) s) hl]
    rfl

/-! The host's reads. -/

theorem busy_eq_decide (s : State) : busy s = decide (s.ctl.state ≠ .idle) :=
  Bool.eq_iff_iff.mpr ((busy_iff s).trans decide_eq_true_iff.symm)

theorem readResult_of_held {v : Byte} (h : s.ctl.result = some v) : readResult s = giveHost (.result v) s := by
  simp only [readResult, h]

theorem readResult_of_none (h : s.ctl.result = none) :
    readResult s = giveHost (.result (draw s).1) (raise .noResult (draw s).2) := by
  simp only [readResult, h]

/-- Settles O34, by whether a result is held. -/
theorem hostPortReads : Obligations.HostPortReads := by
  intro s hl
  refine ⟨?_, fun v hheld => ?_, fun hnone => ⟨(draw s).1, ?_⟩⟩ <;> rw [perform, whenLive_live hl]
  · rw [readBusy, busy_eq_decide, giveHost]
  · rw [readResult_of_held hheld, giveHost]
  · rw [readResult_of_none hnone, raise_of_live (s := (draw s).2) hl]
    rfl

/-! A whole INIT. -/

/-- CONTROL_B as a whole INIT leaves it: both enables set, every other bit 0 (R104). -/
def enablesOnly : ControlB where
  rxcie := false
  txcie := false
  udrie := false
  rxen := true
  txen := true
  ucsz2 := false
  rxb8 := false
  txb8 := false

/-- The block a whole INIT with the divisor `d` leaves (R104), with the moves `rest` still to come. -/
def initialised (d : Divisor) (rest : List Move) (s : State) : State :=
  { s with ubrrh := highByte d, ubrrl := lowByte d, b := enablesOnly, c := 0x06,
           ctl := { s.ctl with div := d, state := .idle }, schedule := rest }

/-- The bits INIT does not write are held at 0, so its write of CONTROL_B leaves the enables only (R26, R27, R108). -/
theorem storeEnables_enable {b : ControlB}
    (h : b.rxcie = false ∧ b.txcie = false ∧ b.udrie = false ∧ b.ucsz2 = false ∧ b.rxb8 = false) :
    storeEnables 0x18 b = enablesOnly := by
  obtain ⟨hrxcie, htxcie, hudrie, hucsz2, hrxb8⟩ := h
  simp [storeEnables, enablesOnly, hrxcie, htxcie, hudrie, hucsz2, hrxb8]

/-- INIT's acceptance and the controller's four turns, one register write after the other (R103 to R109). -/
theorem core_run_init (hs : s.HostReady) (hp : s.params.Valid)
    (hb : s.b.rxcie = false ∧ s.b.txcie = false ∧ s.b.udrie = false ∧ s.b.ucsz2 = false ∧ s.b.rxb8 = false)
    {baud : Baud} {d : Divisor} (hd : divisor s.params baud.toNat = .ok d) (rest : List Move) :
    core.run 5 (setSchedule (.offer (encode (.init baud)) :: .turn .controller :: .turn .controller ::
      .turn .controller :: .turn .controller :: rest) s) = .next (initialised d rest s) := by
  have haccept : perform (.offer (encode (.init baud))) s =
      .next { s with ctl := { s.ctl with div := d, state := .initWh } } :=
    (perform_offer_encode hs (.init baud)).trans (congrArg _ (acceptInit_of_divisor hd))
  have hwh : perform (.turn .controller) { s with ctl := { s.ctl with div := d, state := .initWh } } = .next
      { s with ubrrh := highByte d, ctl := { s.ctl with div := d, state := .initWl } } :=
    perform_initWh hs.1 rfl hp (divisor_loadable hp hd)
  have hwl : perform (.turn .controller)
      { s with ubrrh := highByte d, ctl := { s.ctl with div := d, state := .initWl } } = .next
      { s with ubrrh := highByte d, ubrrl := lowByte d, ctl := { s.ctl with div := d, state := .initWb } } :=
    perform_initWl hs.1 rfl
  have hwb : perform (.turn .controller)
      { s with ubrrh := highByte d, ubrrl := lowByte d, ctl := { s.ctl with div := d, state := .initWb } } = .next
      { s with ubrrh := highByte d, ubrrl := lowByte d, b := enablesOnly,
               ctl := { s.ctl with div := d, state := .initWc } } :=
    storeEnables_enable hb ▸ perform_initWb hs.1 rfl
  have hwc : perform (.turn .controller)
      { s with ubrrh := highByte d, ubrrl := lowByte d, b := enablesOnly,
               ctl := { s.ctl with div := d, state := .initWc } } = .next (initialised d s.schedule s) :=
    perform_initWc hs.1 rfl
  exact (core_run_cons 4 haccept).trans <| (core_run_cons 3 hwh).trans <| (core_run_cons 2 hwl).trans <|
    (core_run_cons 1 hwb).trans <| core_run_cons (l := rest) 0 hwc

/-- Settles O30: the block a whole INIT leaves meets the premises of a whole INIT again, which writes into each field
what it holds. -/
theorem initWholeEffect : Obligations.InitWholeEffect := by
  intro s baud d rest h hs hd
  refine ⟨core_run_init hs h.params h.heldB hd rest, ?_⟩
  exact core_run_init (s := initialised d rest s) ⟨hs.1, rfl⟩ h.params ⟨rfl, rfl, rfl, rfl, rfl⟩ hd rest

/-! An RX that waits for ever. -/

/-- The controller polls for a byte that no receiver can bring (R124). -/
def PollsDisabledReceiver (s : State) : Prop :=
  s.ctl.state = .rxPoll ∧ s.rxbuf = none ∧ s.b.rxen = false

theorem receiverStep_of_disabled (h : s.b.rxen = false) (b : Byte) (fe : Bool) : receiverStep b fe s = s := by
  simp [receiverStep, h]

theorem controllerStep_pollsDisabledReceiver (h : PollsDisabledReceiver s) :
    PollsDisabledReceiver (controllerStep s) := by
  obtain ⟨hq, hempty, hoff⟩ := h
  rw [controllerStep, hq]
  exact ⟨by simp [stepRxPoll, stepPoll_eq, rxc, hempty], hempty, hoff⟩

theorem transmitterStep_pollsDisabledReceiver (h : PollsDisabledReceiver s) :
    PollsDisabledReceiver (transmitterStep s) := by
  rw [transmitterStep_footprint]
  exact h

/-- No move but reset ends the wait: a host word is contention, and an offered frame does not reach the block. -/
theorem perform_pollsDisabledReceiver {m : Move} (hm : m ≠ .reset) (h : PollsDisabledReceiver s)
    (hp : perform m s = .next t) : PollsDisabledReceiver t := by
  have ⟨hq, _, hoff⟩ := h
  cases perform_next hp with
  | reset => exact absurd rfl hm
  | instr _ _ _ hr => exact absurd (hq.symm.trans hr.2) nofun
  | reserved _ _ _ hr => exact absurd (hq.symm.trans hr.2) nofun
  | contended | elsewhere | readBusy | writeMem => exact h
  | readResult => rw [readResult_footprint]; exact h
  | frame b fe => rwa [receiverStep_of_disabled hoff]
  | controller => exact controllerStep_pollsDisabledReceiver h
  | transmitter => exact transmitterStep_pollsDisabledReceiver h

theorem defaultTurn_pollsDisabledReceiver (h : PollsDisabledReceiver s) : PollsDisabledReceiver (defaultTurn s) := by
  unfold defaultTurn
  split
  · exact controllerStep_pollsDisabledReceiver h
  · split
    · exact transmitterStep_pollsDisabledReceiver h
    · exact h

/-- Settles O58, for a scheduled move and for a default turn. -/
theorem receiveBeforeInitWaits : Obligations.ReceiveBeforeInitWaits := by
  intro s t hq hempty hoff hstep hnoreset
  have h : PollsDisabledReceiver s := ⟨hq, hempty, hoff⟩
  obtain ⟨m, rest, hsched, hp⟩ | ⟨-, -, rfl⟩ := step_next hstep
  · refine perform_pollsDisabledReceiver (s := setSchedule rest s) ?_ h hp
    rintro rfl
    exact hnoreset rest hsched
  · exact defaultTurn_pollsDisabledReceiver h

end Sys2Proof.Machine
end

section
/-! PROOFS. Sending (R91, R92, R110 to R119, R125): what a Transmit or SendString, the transmit buffer and the shift
stage still have to put on the line is kept by every move, until all of it is on the line. -/

namespace Sys2Proof.Machine

/-! What is still to be sent. -/

section
variable {s t : State} {m : Move} {u : Divisor} {start line : List TxEvent}

/-- The event of a byte sent with the divisor `u` in the admitted format (R35). -/
def eventOf (u : Divisor) (b : Byte) : TxEvent := ⟨b, u, frame8n1⟩

/-- `bs` is what the controller still writes to DATA: nothing in IDLE, the byte of a Transmit until its act, and for a
SendString its current byte until that byte's act, with the rest of the zero-terminated sequence. -/
def ToWrite (mem : Memory) (c : Controller) (bs : List Byte) : Prop :=
  match c.state with
  | .idle => bs = []
  | .txPoll | .txAct => bs = [c.byte]
  | .ssFetch => stringAt mem c.addr.toNat bs
  | .ssPoll | .ssAct => ∃ rest, bs = c.byte :: rest ∧ stringAt mem (c.addr.toNat + 1) rest
  | .initWh | .initWl | .initWb | .initWc | .rxPoll | .rxAct => False

/-- The controller is IDLE or sends, with the divisor `u` loaded, and when everything outstanding is sent the line
history will be `line`; a transmitter that has sent something since `start` and holds nothing shows it in TXC (R17). -/
structure Sending (u : Divisor) (start line : List TxEvent) (s : State) : Prop where
  divisor : ubrr s = u
  outstanding : ∃ bs, ToWrite s.mem s.ctl bs ∧
    s.txline ++ s.txshift.toList ++ (s.txbuf.toList ++ bs).map (eventOf u) = line
  complete : s.txline ≠ start → s.txbuf = none → s.txshift = none → s.a.txc = true

/-- A controller step that touches neither the transmitter nor the memory need only keep what is to be written. -/
theorem setCtl_sending {c : Controller} (h : Sending u start line s)
    (hc : ∀ bs, ToWrite s.mem s.ctl bs → ToWrite s.mem c bs) : Sending u start line (setCtl c s) :=
  { h with outstanding := h.outstanding.imp fun bs hbs => ⟨hc bs hbs.1, hbs.2⟩ }

/-- An act moves the first byte to be written into the empty transmit buffer. -/
theorem fillTxbuf_sending {c : Controller} {d : Byte} (h : Sending u start line s) (hempty : s.txbuf = none)
    (hc : ∀ bs, ToWrite s.mem s.ctl bs → ∃ rest, bs = d :: rest ∧ ToWrite s.mem c rest) :
    Sending u start line (setCtl c (setTxbuf (some d) s)) := by
  obtain ⟨bs, hbs, hline⟩ := h.outstanding
  obtain ⟨rest, rfl, hrest⟩ := hc bs hbs
  refine ⟨h.divisor, ⟨rest, hrest, ?_⟩, fun _ hfull => absurd hfull nofun⟩
  simpa [hempty] using hline

/-- A poll keeps what is to be written, whichever way it goes (R111, R118). -/
theorem poll_sending {ready again : CtlState} (h : Sending u start line s) {c : Prop} [Decidable c]
    (hready : ∀ bs, ToWrite s.mem s.ctl bs → ToWrite s.mem { s.ctl with state := ready } bs)
    (hagain : ∀ bs, ToWrite s.mem s.ctl bs → ToWrite s.mem { s.ctl with state := again } bs) :
    Sending u start line (goto (if c then ready else again) s) := by
  split
  · exact setCtl_sending h hready
  · exact setCtl_sending h hagain

/-- SS_FETCH ends at the terminator, and takes any other byte of the sequence (R117). -/
theorem stepSsFetch_sending (h : Sending u start line s) (hq : s.ctl.state = .ssFetch) :
    Sending u start line (stepSsFetch s) := by
  have hstring : ∀ bs, ToWrite s.mem s.ctl bs → stringAt s.mem s.ctl.addr.toNat bs := fun bs hbs => by
    simpa only [ToWrite, hq] using hbs
  unfold stepSsFetch
  split
  next hzero =>
    refine setCtl_sending h fun bs hbs => ?_
    cases bs with
    | nil => rfl
    | cons b rest =>
      obtain ⟨hb, hne, -⟩ := hstring _ hbs
      exact absurd (hb.symm.trans hzero) hne
  next hbyte =>
    refine setCtl_sending h fun bs hbs => ?_
    cases bs with
    | nil => exact absurd (hstring _ hbs).2 hbyte
    | cons b rest =>
      obtain ⟨hb, -, hrest⟩ := hstring _ hbs
      exact ⟨rest, congrArg (· :: rest) hb.symm, hrest⟩

/-- The controller's step keeps what is outstanding, if it raises no fault: no F4 in an act, and no F9. -/
theorem controllerStep_sending (h : Sending u start line s) (hl : s.Live) (ht : (controllerStep s).Live) :
    Sending u start line (controllerStep s) := by
  obtain ⟨bs, hbs, -⟩ := h.outstanding
  unfold controllerStep at ht ⊢
  cases hq : s.ctl.state with
  | initWh | initWl | initWb | initWc | rxPoll | rxAct => simp only [ToWrite, hq] at hbs
  | idle => exact h
  | txPoll =>
    have hkeep : ∀ bs, ToWrite s.mem s.ctl bs → bs = [s.ctl.byte] := fun bs hb => by simpa only [ToWrite, hq] using hb
    exact poll_sending h hkeep hkeep
  | ssPoll =>
    have hkeep : ∀ bs, ToWrite s.mem s.ctl bs →
        ∃ rest, bs = s.ctl.byte :: rest ∧ stringAt s.mem (s.ctl.addr.toNat + 1) rest := fun bs hb => by
      simpa only [ToWrite, hq] using hb
    exact poll_sending h hkeep hkeep
  | ssFetch => exact stepSsFetch_sending h hq
  | txAct =>
    simp only [hq] at ht
    obtain ⟨_, e⟩ | ⟨_, _, e⟩ | ⟨_, hempty, e⟩ := stepTxAct_cases hl
    · exact absurd (e ▸ ht) (raise_not_live _ s)
    · exact absurd (e ▸ ht) (raise_not_live _ s)
    · exact e ▸ fillTxbuf_sending h hempty fun bs hb => ⟨[], by simpa only [ToWrite, hq] using hb, rfl⟩
  | ssAct =>
    simp only [hq] at ht
    obtain ⟨_, e⟩ | ⟨_, _, e⟩ | ⟨_, _, _, e⟩ | ⟨_, hempty, haddr, e⟩ := stepSsAct_cases hl
    · exact absurd (e ▸ ht) (raise_not_live _ s)
    · exact absurd (e ▸ ht) (raise_not_live _ s)
    · exact absurd (e ▸ ht) (raise_not_live _ _)
    · refine e ▸ fillTxbuf_sending h hempty fun bs hb => ?_
      have hnext : (s.ctl.addr + 1).toNat = s.ctl.addr.toNat + 1 := by bv_omega
      simpa only [ToWrite, hq, hnext] using hb

/-- The transmitter's step moves the first outstanding byte one stage on, if it is not refused (R91, R92). -/
theorem transmitterStep_sending (h : Sending u start line s) (ht : (transmitterStep s).Live) :
    Sending u start line (transmitterStep s) := by
  obtain ⟨bs, hbs, hline⟩ := h.outstanding
  obtain ⟨e, hshift, _, eq⟩ | ⟨d, hshift, _, hbuf, ha, eq⟩ | ⟨_, eq⟩ | ⟨_, _, eq⟩ := transmitterStep_cases s
  · rw [eq, completeTx_eq]
    exact ⟨h.divisor, ⟨bs, hbs, by simpa [hshift] using hline⟩, fun _ hempty _ => if_pos hempty⟩
  · rw [eq]
    have hevent : (⟨d, ubrr s, s.c⟩ : TxEvent) = eventOf u d := by
      rw [eventOf, h.divisor, ((admitted_iff s).mp ha).1]
    exact ⟨h.divisor, ⟨bs, hbs, by simpa [hshift, hbuf, hevent] using hline⟩, fun _ _ hfull => absurd hfull nofun⟩
  · exact absurd (eq ▸ ht) (refuse_not_live _ s)
  · rwa [eq]

theorem wordOf_of_undisturbing (hm : m.undisturbing = true) (s : State) : wordOf m s = none := by
  cases m with
  | offer | access => cases hm
  | readBusy | readResult | writeMem | frame | turn | reset => rfl

theorem ne_reset_of_undisturbing (hm : m.undisturbing = true) : m ≠ .reset := by
  rintro rfl
  cases hm

/-- Turns, frames and host reads keep what is outstanding, as long as the run goes on. -/
theorem perform_sending (h : Sending u start line s) (hm : m.undisturbing = true) (hp : perform m s = .next t)
    (ht : t.Live) : Sending u start line t := by
  have hw := wordOf_of_undisturbing hm s
  cases perform_next hp with
  | reset | writeMem | elsewhere => cases hm
  | instr _ _ _ _ hw' => exact absurd (hw.symm.trans hw') nofun
  | reserved _ _ _ _ hw' => exact absurd (hw.symm.trans hw') nofun
  | contended _ _ _ _ _ hw' => exact absurd (hw.symm.trans hw') nofun
  | readBusy => exact { h with }
  | readResult => rw [readResult_footprint]; exact { h with }
  | frame b fe => rw [receiverStep_footprint]; exact { h with }
  | controller hl => exact controllerStep_sending h hl ht
  | transmitter => exact transmitterStep_sending h ht

/-- With the controller IDLE, turns, frames and host reads leave it IDLE, and nothing fills the transmit buffer. -/
theorem perform_idle (hm : m.undisturbing = true) (hq : s.ctl.state = .idle) (hp : perform m s = .next t) :
    t.ctl.state = .idle ∧ (s.txbuf = none → t.txbuf = none) := by
  have hw := wordOf_of_undisturbing hm s
  constructor
  · obtain rfl | hctl := perform_ctl (ne_reset_of_undisturbing hm) hw hp
    · obtain ⟨-, rfl⟩ := whenLive_next.mp hp
      rwa [agentStep, controllerStep_of_idle hq]
    · rwa [hctl]
  · intro hempty
    obtain hnone | hsame | ⟨d, hwrite⟩ | ⟨-, hact⟩ := perform_txbuf hp
    · exact hnone
    · exact hsame.trans hempty
    · exact absurd (hw.symm.trans hwrite) nofun
    · simp [hq] at hact

end

/-! Along a run. -/

section
variable {states : Nat → State} {moves : Nat → Move}

theorem WeaklyFair.tail {k : FairStep} (h : WeaklyFair k states moves) :
    WeaklyFair k (fun n => states (n + 1)) fun n => moves (n + 1) := fun n henabled => by
  obtain ⟨m, hm, hmove⟩ := h (n + 1) fun m hm => by
    obtain ⟨j, rfl⟩ := Nat.exists_eq_add_of_le' (Nat.one_le_of_lt hm)
    exact henabled j (by omega)
  obtain ⟨j, rfl⟩ := Nat.exists_eq_add_of_le' (Nat.one_le_of_lt hm)
  exact ⟨j, by omega, hmove⟩

/-- A fair run without its first move is a fair run. -/
theorem FairRun.tail (h : FairRun states moves) : FairRun (fun n => states (n + 1)) fun n => moves (n + 1) where
  run := h.run.tail
  controller := h.controller.tail
  transmitter hc := (h.transmitter (perform_params (h.run.next 0) ▸ hc)).imp WeaklyFair.tail WeaklyFair.tail

section
variable {u : Divisor} {start line : List TxEvent} (hm : ∀ n, (moves n).undisturbing = true)
include hm

theorem IsRun.sending (h : IsRun states moves) (hs : Sending u start line (states 0)) (n : Nat) :
    Sending u start line (states n) := by
  induction n with
  | zero => exact hs
  | succ n ih => exact perform_sending ih (hm n) (h.next n) (h.live (ne_reset_of_undisturbing (hm (n + 1))))

/-- A block that sends comes to IDLE: it never receives, and where the transmit clock runs it does not poll for ever
(R124). -/
theorem FairRun.idle_of_sending (h : FairRun states moves) (h0 : (states 0).Inv)
    (hc : (states 0).params.txClockRuns = true) (hs : Sending u start line (states 0)) :
    ∃ n, (states n).ctl.state = .idle := by
  obtain hidle | ⟨n, hrx⟩ | ⟨hoff, -⟩ := commandsEndOrPollForEver states moves h h0
  · exact hidle
  · obtain ⟨bs, hbs, -⟩ := (h.run.sending hm hs n).outstanding
    simp only [ToWrite, (hrx n le_rfl).1] at hbs
  · exact absurd (hc.symm.trans hoff) nofun

theorem IsRun.idle_stays (h : IsRun states moves) {n : Nat} (hq : (states n).ctl.state = .idle) {m : Nat}
    (hnm : n ≤ m) : (states m).ctl.state = .idle := by
  induction m, hnm using Nat.le_induction with
  | base => exact hq
  | succ m _ ih => exact (perform_idle (hm m) ih (h.next m)).1

theorem IsRun.buffer_stays_empty (h : IsRun states moves) {n : Nat} (hq : (states n).ctl.state = .idle)
    (hempty : (states n).txbuf = none) {m : Nat} (hnm : n ≤ m) : (states m).txbuf = none := by
  induction m, hnm using Nat.le_induction with
  | base => exact hempty
  | succ m hnm ih => exact (perform_idle (hm m) (h.idle_stays hm hq hnm) (h.next m)).2 ih

/-- The controller comes to IDLE, then the transmit buffer and the shift stage empty: a final state, in which all that
was outstanding is on the line. -/
theorem FairRun.final_of_sending (h : FairRun states moves) (h0 : (states 0).Inv)
    (hc : (states 0).params.txClockRuns = true) (hs : Sending u start line (states 0)) :
    ∃ n, (states n).Final ∧ (states n).txline = line ∧ (line ≠ start → (states n).a.txc = true) := by
  have hreset : ∀ n, moves n ≠ .reset := fun n => ne_reset_of_undisturbing (hm n)
  obtain ⟨i, hidle⟩ := h.idle_of_sending hm h0 hc hs
  obtain ⟨j, hij, hbuf⟩ := h.buffer_empties hreset h0 hc i
  obtain ⟨k, hjk, hshift⟩ := h.run.shift_empties hreset (h.transmitter hc).2 j
  have hidle' := h.run.idle_stays hm hidle hij
  have hfinal : (states k).Final :=
    { noFault := (h.run.live (hreset k)).1
      notRefused := (h.run.live (hreset k)).2
      idle := h.run.idle_stays hm hidle' hjk
      bufferEmpty := h.run.buffer_stays_empty hm hidle' hbuf hjk
      shiftEmpty := hshift }
  have hsend := h.run.sending hm hs k
  obtain ⟨bs, hbs, hline⟩ := hsend.outstanding
  obtain rfl : bs = [] := by simpa only [ToWrite, hfinal.idle] using hbs
  have hline' : (states k).txline = line := by simpa [hfinal.bufferEmpty, hfinal.shiftEmpty] using hline
  exact ⟨k, hfinal, hline', fun hne => hsend.complete (hline'.trans_ne hne) hfinal.bufferEmpty hfinal.shiftEmpty⟩

end

/-- A command accepted in a final state, after which the host only reads, sends all it has to. -/
theorem FairRun.final_of_accepted {i : Instr} {u : Divisor} {line : List TxEvent} (h : FairRun states moves)
    (h0 : (states 0).Inv) (hf : (states 0).Final) (hc : (states 0).params.txClockRuns = true)
    (hoffer : moves 0 = .offer (encode i)) (hm : ∀ n, 0 < n → (moves n).undisturbing = true)
    (hs : Sending u (states 0).txline line (effect i (states 0))) :
    ∃ n, 0 < n ∧ (states n).Final ∧ (states n).txline = line ∧
      (line ≠ (states 0).txline → (states n).a.txc = true) := by
  have hfirst : states 1 = effect i (states 0) := by
    have haccept := perform_offer_encode ⟨hf.live, hf.idle⟩ i
    rw [← hoffer, h.run.next 0] at haccept
    exact Host.Outcome.next.inj haccept
  have hc' : (states 1).params.txClockRuns = true := perform_params (h.run.next 0) ▸ hc
  obtain ⟨n, hn⟩ := h.tail.final_of_sending (fun n => hm (n + 1) n.succ_pos) (h.run.inv h0 1) hc' (hfirst ▸ hs)
  exact ⟨n + 1, n.succ_pos, hn⟩

/-- What an accepted command has to write is all that is outstanding: in a final state nothing is buffered. -/
theorem sending_of_accepted {s : State} (hf : s.Final) {c : Controller} {bs : List Byte} (hbs : ToWrite s.mem c bs) :
    Sending (ubrr s) s.txline (s.txline ++ bs.map (eventOf (ubrr s))) (setCtl c s) where
  divisor := rfl
  outstanding := ⟨bs, hbs, by simp [hf.bufferEmpty, hf.shiftEmpty]⟩
  complete hne := absurd rfl hne

end

/-- Settles O55: the byte is all that is to be sent, and it lengthens the line. The premises on TXEN and CONTROL_C are
not used: without them the run would end in F4 or N8. -/
theorem transmitReachesLine : Obligations.TransmitReachesLine := by
  intro states moves byte h h0 hf hc _ _ hoffer hm
  have hs := sending_of_accepted hf
    (c := { (states 0).ctl with byte := byte, state := .txPoll }) (bs := [byte]) rfl
  obtain ⟨n, hn, hfinal, hline, htxc⟩ := h.final_of_accepted h0 hf hc hoffer hm hs
  exact ⟨n, hn, hfinal, htxc (by simp), hline⟩

/-- Settles O56: the bytes of the sequence are all that is to be sent. The premises on TXEN and CONTROL_C are not used:
without them a run with a byte to send would end in F4 or N8. -/
theorem sendStringSendsExactlyTheString : Obligations.SendStringSendsExactlyTheString := by
  intro states moves addr bs h h0 hf hc _ _ hstring hoffer hm
  have hs := sending_of_accepted hf
    (c := { (states 0).ctl with addr := addr, state := .ssFetch }) (bs := bs) hstring
  obtain ⟨n, hn, hfinal, hline, -⟩ := h.final_of_accepted h0 hf hc hoffer hm hs
  exact ⟨n, hn, hfinal, hline⟩

end Sys2Proof.Machine
end

section
/-! PROOFS. Quiescence (R128, R130, R131): every move but reset, and the default turn, first asks whether a fault or a
refusal is recorded, and reset clears both (R144). -/

namespace Sys2Proof.Machine

variable {s : State}

/-- A word that does not decode is refused behind the checks of quiescence and ownership (R131). -/
theorem rejectWord_eq (w : PortWord) (r : RefusalCode) (s : State) :
    rejectWord w r s = whenLive s fun s => if busy s then raise (contention w) s else refuse r s := by
  cases w with
  | bus _ => rfl
  | cmd _ => rfl

/-- A host word is taken behind the check of quiescence, whether or not it decodes. -/
theorem offerWord_guarded (w : PortWord) (s : State) : ∃ k, offerWord w s = whenLive s k := by
  unfold offerWord
  cases decode w with
  | ok i => exact ⟨_, exec_eq i s⟩
  | error r => exact ⟨_, rejectWord_eq w r s⟩

/-- So is a platform access, also one that does not reach the block. -/
theorem platformAccess_guarded (n : Nat) (write : Option Byte) (s : State) :
    ∃ k, platformAccess n write s = whenLive s k := by
  unfold platformAccess
  cases locationAt s.params n with
  | none => exact ⟨fun s => s, rfl⟩
  | some r => exact offerWord_guarded (accessWord r write) s

/-- In a state that is not live the check of quiescence comes before that of a byte still to be fetched (R56). -/
theorem writeCallerMemory_of_not_live (hs : ¬ s.Live) (a : Addr) (b : Byte) :
    writeCallerMemory a b s = whenLive s (storeByte a b) := by
  simp [writeCallerMemory, live_iff, hs]

/-- In a state that is not live every move but reset answers what the check of quiescence answers. -/
theorem perform_of_not_live (hs : ¬ s.Live) {m : Move} (hm : m ≠ .reset) : ∃ k, perform m s = whenLive s k := by
  cases m with
  | offer w => exact offerWord_guarded w s
  | access n write => exact platformAccess_guarded n write s
  | readBusy => exact ⟨readBusy, rfl⟩
  | readResult => exact ⟨readResult, rfl⟩
  | writeMem a b => exact ⟨storeByte a b, writeCallerMemory_of_not_live hs a b⟩
  | frame b fe => exact ⟨receiverStep b fe, rfl⟩
  | turn g => exact ⟨agentStep g, rfl⟩
  | reset => exact absurd rfl hm

theorem step_eq_whenLive (h : s.schedule = []) : step s = whenLive s defaultTurn := by
  simp only [step, h]

theorem perform_faulted (hf : s.faults ≠ []) {m : Move} (hm : m ≠ .reset) :
    perform m s = .fault (.faulted s.faults) := by
  obtain ⟨k, hk⟩ := perform_of_not_live (fun hl => hf hl.1) hm
  exact hk.trans (whenLive_faulted hf k)

theorem perform_refused {r : RefusalCode} (hf : s.faults = []) (hr : s.refused = some r) {m : Move}
    (hm : m ≠ .reset) : perform m s = .refused (.formRefused r) := by
  have hs : ¬ s.Live := fun hl => by simpa [hr] using hl.2
  obtain ⟨k, hk⟩ := perform_of_not_live hs hm
  exact hk.trans (whenLive_refused hf hr k)

theorem resetBlock_live (s : State) : (resetBlock s).Live := ⟨resetBlock_faults s, resetBlock_refused s⟩

/-- Settles O11: a move and a turn answer what the check of quiescence answers, and reset asks nothing. -/
theorem faultedIsQuiescent : Obligations.FaultedIsQuiescent := by
  intro s
  refine ⟨fun hf => ⟨fun m => perform_faulted hf, fun h => ?_⟩,
    fun r hf hr => ⟨fun m => perform_refused hf hr, fun h => ?_⟩, resetBlock s, rfl, resetBlock_live s⟩
  · exact (step_eq_whenLive h).trans (whenLive_faulted hf defaultTurn)
  · exact (step_eq_whenLive h).trans (whenLive_refused hf hr defaultTurn)

end Sys2Proof.Machine
end

section
/-! PROOFS. Reset (R143, R144): the registers as a read would show them after it, from the value of each field. -/

namespace Sys2Proof.Machine

/-- After reset the transmit buffer is empty and nothing is received, so UDRE alone is 1 (R15). -/
@[simp] theorem statusAByte_resetBlock (s : State) : statusAByte (resetBlock s) = 0x20 := by
  simp only [statusAByte, rxc, udre, resetBlock_a, resetBlock_rxbuf, resetBlock_txbuf]
  decide

@[simp] theorem controlBByte_reset : controlBByte ControlB.reset = 0x00 := by decide

/-- The two bytes of a divisor make the divisor (R46). -/
@[simp] theorem highByte_append_lowByte (d : Divisor) : highByte d ++ lowByte d = d :=
  (BitVec.extractLsb'_append_extractLsb'_eq_extractLsb' rfl).trans BitVec.extractLsb'_eq_self

/-- Settles O41: reset asks nothing of the state it is asserted in, and a field of the state it leaves is a field of
`resetBlock`. -/
theorem resetMove : Obligations.ResetMove := fun s =>
  ⟨resetBlock s, rfl, statusAByte_resetBlock s, controlBByte_reset, rfl, resetBlock_c s,
    highByte_append_lowByte s.params.resetUbrr, resetBlock_txbuf s, resetBlock_txshift s, resetBlock_rxbuf s,
    rfl, rfl, resetBlock_txline s, resetBlock_live s⟩

end Sys2Proof.Machine
end

section
/-! PROOFS. The state after reset: a launch with the default parameters, which resetting again leaves as it is. -/

namespace Sys2Proof.Machine

/-- The state after reset is a reset block, so what is said of every reset block (R143) holds of it. -/
@[simp] theorem resetBlock_reset : resetBlock State.reset = State.reset := rfl

@[simp] theorem statusAByte_reset : statusAByte State.reset = 0x20 := by
  rw [← resetBlock_reset, statusAByte_resetBlock]

theorem reset_live : State.reset.Live := by
  rw [← resetBlock_reset]
  exact resetBlock_live State.reset

/-- With no cell listed, every byte reads as an unlisted one (log entry 9). -/
theorem memRead_of_mem_nil {s : State} (h : s.mem = []) (a : Addr) : memRead s a = unlistedByte :=
  congrArg (memGet · a.toNat) h

/-- The default divisor is 0, so both of its bytes are (log entry 6). -/
theorem defaults_resetUbrr_bytes :
    highByte Config.defaults.resetUbrr = 0 ∧ lowByte Config.defaults.resetUbrr = 0 := by decide

/-- Settles O42: STATUS_A and CONTROL_B from the bytes of a reset block, UBRR from the default divisor, caller memory
from the empty list; every other field is the one the launch names. -/
theorem resetStateValues : Obligations.ResetStateValues := by
  obtain ⟨hhigh, hlow⟩ := defaults_resetUbrr_bytes
  obtain ⟨hfaults, hrefused⟩ := reset_live
  have hmem : State.reset.mem = [] := rfl
  exact ⟨statusAByte_reset, controlBByte_reset, rfl, rfl, hhigh, hlow, rfl, rfl, rfl, rfl, rfl, hfaults, hrefused, rfl,
    hmem, memRead_of_mem_nil hmem, rfl, rfl, rfl, rfl⟩

end Sys2Proof.Machine
end
